-- ==== Sys2Proof/Word.lean ====
section
/-! DEFINITION. The word types of the spec: the operand formats of 30_encoding.md R61 to R64 and the register
widths of 10_state.md R34. -/

namespace Sys2Proof

/-- Format PT16, the packed time (R61): four BCD digits, minutes in the high byte, seconds in the low byte. -/
abbrev PT16 := BitVec 16

/-- Format SW10, the switch word (R62). -/
abbrev SW10 := BitVec 10

/-- Format EV9, the event bus (R63): `kind` in bits 8:6, `payload` in bits 5:0. -/
abbrev EV9 := BitVec 9

/-- Format PEND2, the pending word (R64): `btn_cap` in bit 1, `tick_pending` in bit 0. -/
abbrev PEND2 := BitVec 2

/-- The register `hours` (R22, `W_HRS = 7`). -/
abbrev Hours := BitVec 7

/-- The register `sub_tick_count` (R23, `W_SUB = 4`). -/
abbrev SubTick := BitVec 4

/-- A decoded field of DEC, 0 to 99 (R86; the ports `dec_min` and `dec_sec` of R32). -/
abbrev Field7 := BitVec 7

/-- The six value bits of a SetField and the amount of a Bump (R63, `W_BUMP = 6`). -/
abbrev Payload := BitVec 6

/-- The data of a host register access. The spec gives no bus width (N8). DESIGN CHOICE (log entry 6): 32 bits,
which hold every access of R66. -/
abbrev BusWord := BitVec 32

/-- `HOURS_MOD` of R7. -/
def hoursMod : Nat := 100

/-- The outputs of INC (R82, R84). -/
structure IncOut where
  q       : PT16
  secWrap : Bool
  hourOvf : Bool
deriving DecidableEq, Repr, Inhabited

/-- The outputs of DEC (R86); the port `bcd_err` is `not ok`. -/
structure DecOut where
  ok : Bool
  m  : Field7
  s  : Field7
deriving DecidableEq, Repr, Inhabited

end Sys2Proof
end

