-- ==== Sys2Proof/Syntax.lean ====
section
/-! DEFINITION. The syntax of the machine: the 31 operations of 30_encoding.md R60, one constructor of `Instr` each;
the input events (R63); host register accesses (R65); what selects an operation; the inputs of one cycle (R31),
a list of which is what the spec calls a program (R71). -/

namespace Sys2Proof

/-- The four named bits of Timer control (R66). Their positions are OPEN, so the fields are named (log entry 15). -/
structure TimerControl where
  interruptEnable : Bool
  continuousMode  : Bool
  start           : Bool
  stop            : Bool
deriving DecidableEq, Repr, Inhabited

/-- Which half of the 32-bit Timer period (R43, R190). -/
inductive PeriodHalf where
  | low
  | high
deriving DecidableEq, Repr, Inhabited

/-- The logical registers of R33, by name (R42: the model never uses a number for one). -/
inductive LogReg where
  | led
  | switches
  | display (k : Nat)
  | buttonData
  | buttonEdge
  | timerStatus
  | timerControl
  | timerPeriod (half : PeriodHalf)
deriving DecidableEq, Repr, Inhabited

/-- A write to a logical register, with its data (R65). Timer control carries its four named bits. -/
inductive RegWrite where
  | led (d : BusWord)
  | switches (d : BusWord)
  | display (k : Nat) (d : BusWord)
  | buttonData (d : BusWord)
  | buttonEdge (d : BusWord)
  | timerStatus (d : BusWord)
  | timerControl (f : TimerControl)
  | timerPeriod (half : PeriodHalf) (d : BusWord)
deriving DecidableEq, Repr, Inhabited

/-- Format REG, a host register access (R65): a direction, a register and, for a write, the data. -/
inductive RegAccess where
  | read (r : LogReg)
  | write (w : RegWrite)
deriving DecidableEq, Repr, Inhabited

/-- The document's `InputEvent` (R63). -/
inductive Event where
  | noop
  | setSec (v : Payload)
  | setMin (v : Payload)
  | setHrs (v : Payload)
  | bump (n : Payload)
  | exit
deriving DecidableEq, Repr, Inhabited

/-- The operations of R60. Operands are the inputs and wires that the operation's rule lists as operands; what an
operation reads from a register it reads from the state. -/
inductive Instr where
  | inc (p : PT16)
  | dec (p : PT16)
  | enc (m s : Nat)
  | sample (btnRaw : Bool) (swRaw : SW10)
  | capture (trans ackIn : Bool)
  | ack
  | tcapture (tmrTimeout ackTick hostAckTick : Bool)
  | evtEdge
  | evtLevel
  | step
  | noop
  | setSec (v : Payload)
  | setMin (v : Payload)
  | setHrs (v : Payload)
  | bump (n : Payload)
  | exit
  | tick
  | advance
  | hourOvf (ovf : Bool)
  | reset
  | rdSw
  | rdBtn
  | rdEdge
  | ackEdge (d : BusWord)
  | rdTstat
  | ackTstat (d : BusWord)
  | wrTctrl (f : TimerControl)
  | wrTper (half : PeriodHalf) (d : BitVec 16)
  | wrDisp (k : Nat) (pattern : BitVec 8)
  | wrLed (d : BitVec 10)
  | rdTime
deriving DecidableEq, Repr

/-- The operation an input event is (R63, first column). -/
def Event.toInstr : Event → Instr
  | .noop => .noop
  | .setSec v => .setSec v
  | .setMin v => .setMin v
  | .setHrs v => .setHrs v
  | .bump n => .bump n
  | .exit => .exit

/-- An operation that no bits select: format FN, invoked by the rule R60 names, with its operands. EVT_LEVEL is
here because every switch word selects it (pattern `----------` of R73). -/
inductive Invocation where
  | inc (p : PT16)
  | dec (p : PT16)
  | enc (m s : Nat)
  | sample (btnRaw : Bool) (swRaw : SW10)
  | capture (trans ackIn : Bool)
  | tcapture (tmrTimeout ackTick hostAckTick : Bool)
  | evtLevel
  | step
  | advance
  | hourOvf (ovf : Bool)
deriving DecidableEq, Repr

/-- What selects an operation (R60, column "selected by"; R73). A switch word selects an event together with the
button level and the bump amount. -/
inductive Selection where
  | ev9 (w : EV9)
  | sw10 (w : SW10) (btnLvl : Bool) (bumpAmount : Payload)
  | pend2 (w : PEND2)
  | reg (a : RegAccess)
  | portRst
  | portTime
  | fn (c : Invocation)
deriving DecidableEq, Repr

/-- The input ports of one cycle (R31), the register access the host makes in it, and whether the consumer reads
the clock in it (log entry 11). -/
structure Inputs where
  rst         : Bool
  btnRaw      : Bool
  swRaw       : SW10
  tmrTimeout  : Bool
  dispatchEn  : Bool
  hostAckBtn  : Bool
  hostAckTick : Bool
  host        : Option RegAccess
  rdTime      : Bool
deriving DecidableEq, Repr, Inhabited

/-- One line of the trace notation (R71) without its optional words. -/
def Inputs.line (btn : Bool) (sw : SW10) (tmo disp : Bool) : Inputs :=
  { rst := false, btnRaw := btn, swRaw := sw, tmrTimeout := tmo, dispatchEn := disp, hostAckBtn := false,
    hostAckTick := false, host := none, rdTime := false }

/-- `SW(sel, val)` of R72. -/
def swWord (sel val : Nat) : SW10 := BitVec.ofNat 10 (sel * 256 + val % 64)

/-- `SWEXIT` of R72. -/
def swExit : SW10 := 0x080#10

end Sys2Proof
end

