-- ==== Sys2Proof/Config.lean ====
section
/-! DEFINITION. The parameters of 00_scope.md R7 that the core's rules read, and the free values: constants without
a body that stand for what the spec leaves open. -/

namespace Sys2Proof

/-- `DISPATCH_MODE` (R7, R121). -/
inductive DispatchMode where
  | irq
  | poll
deriving DecidableEq, Repr, Inhabited

/-- `INPUT_MODE` (R7, R107, R110). -/
inductive InputMode where
  | edge
  | level
deriving DecidableEq, Repr, Inhabited

/-- `FEATURE_MODE` (R7, D23): no rule reads it (log entry 19). -/
inductive FeatureMode where
  | demo
  | full
deriving DecidableEq, Repr, Inhabited

/-- `EDGE_SEL` (R7, R102). -/
inductive EdgeSel where
  | any
  | rise
  | fall
deriving DecidableEq, Repr, Inhabited

/-- The parameters of R7 that are model arguments, OPEN, or decided but named as parameters. They are fixed at
construction (R68): the state carries them and no operation writes them. -/
structure Params where
  dispatchMode : DispatchMode
  inputMode    : InputMode
  featureMode  : FeatureMode
  edgeSel      : EdgeSel
  nTicks       : Nat
  bumpAmount   : Payload
  seedPacked   : PT16
  seedHours    : Hours
  valLsb       : Nat
  selLsb       : Nat
  exitBit      : Nat
deriving DecidableEq, Repr

/-- The values R7 shows; the two modes, the feature mode and the two seeds, which R7 leaves to the model, are
DESIGN CHOICE (log entries 2 and 3). -/
def Params.default : Params :=
  { dispatchMode := .poll, inputMode := .level, featureMode := .full, edgeSel := .any, nTicks := 10,
    bumpAmount := 2, seedPacked := 0x0000, seedHours := 0, valLsb := 0, selLsb := 8, exitBit := 7 }

/-- Same switch positions as R62. -/
def Params.defaultLayout (c : Params) : Bool := c.valLsb == 0 && c.selLsb == 8 && c.exitBit == 7

/-- The pair (`IRQ`, `LEVEL`), which R7, D22 and U8 refuse. -/
def Params.refusedPair (c : Params) : Bool := c.dispatchMode == .irq && c.inputMode == .level

/-- What the LED output and the six displays show (R129, `END_PATTERN`). -/
structure OutputPattern where
  led  : BitVec 10
  disp : Vector (BitVec 8) 6
deriving DecidableEq, Repr, Inhabited

/-- FREE VALUE. The outputs of INC for an input outside `ValidPT` (R85, U1): an unknown function of the input,
about which nothing is assumed (log entry 4). -/
opaque Config.incOutside : PT16 → IncOut

/-- FREE VALUE. The minutes and seconds outputs of DEC when a nibble exceeds 9 (R86, U2; log entry 5). -/
opaque Config.decOutside : PT16 → Field7 × Field7

/-- FREE VALUE. The bits of a register read that the spec does not describe (R41, U3), for a register and a
cycle (log entry 6). -/
opaque Config.unusedBits : LogReg → Nat → BusWord

/-- FREE VALUE. The inputs of a cycle for which no trace was given (R8; log entry 1). -/
opaque Config.freeInputs : Nat → Inputs

/-- FREE VALUE. `END_PATTERN` (R7, R129, U10; log entry 17). -/
opaque Config.endPattern : OutputPattern

/-- FREE VALUE. The entries of the digit-to-segment table that the spec does not give, digits 1 to 8 (U15;
log entry 18). -/
opaque Config.segPattern : Nat → BitVec 8

end Sys2Proof
end

