-- ==== Sys2Proof/Decode.lean ====
section
/-! DEFINITION. The decoder and the encoder: the fields of the formats PT16, SW10, EV9, PEND2 (30_encoding.md R61 to
R64), the selection patterns of R73, format REG (R65), and `decodeTableWord`, the host's view of the table. -/

namespace Sys2Proof

/-- Why a selection is no operation of R60. -/
inductive Reject where
  /-- A read R41 does not list (of a write-only register). -/
  | unlistedRead
  /-- A write R41 does not list (to Switch input or Button data). -/
  | unlistedWrite
  /-- A table word wider than its format. -/
  | tooWide
deriving DecidableEq, Repr

/-! ### Fields of PT16 (R61) -/

def minTens (p : PT16) : BitVec 4 := p.extractLsb' 12 4
def minOnes (p : PT16) : BitVec 4 := p.extractLsb' 8 4
def secTens (p : PT16) : BitVec 4 := p.extractLsb' 4 4
def secOnes (p : PT16) : BitVec 4 := p.extractLsb' 0 4

/-- `{mt, mo, st, so}`: a packed time from its four digits (R61). -/
def packDigits (mt mo st so : BitVec 4) : PT16 := mt ++ mo ++ st ++ so

/-- `ValidPT(p)` of 40_bcd_codec.md R80. -/
def validPT (p : PT16) : Bool :=
  (minTens p).toNat ≤ 5 && (minOnes p).toNat ≤ 9 && (secTens p).toNat ≤ 5 && (secOnes p).toNat ≤ 9

/-! ### EV9 (R63) -/

def evKind (w : EV9) : BitVec 3 := w.extractLsb' 6 3
def evPayload (w : EV9) : Payload := w.extractLsb' 0 6

/-- The event an EV9 word carries (R63); the reserved kinds 6 and 7 act as NOOP (R68). -/
def decodeEv9 (w : EV9) : Event :=
  match (evKind w).toNat with
  | 1 => .setSec (evPayload w)
  | 2 => .setMin (evPayload w)
  | 3 => .setHrs (evPayload w)
  | 4 => .bump (evPayload w)
  | 5 => .exit
  | _ => .noop

/-- The EV9 word of an event (R63); an ignored payload is written 0. -/
def encodeEv9 : Event → EV9
  | .noop => 0#3 ++ 0#6
  | .setSec v => 1#3 ++ v
  | .setMin v => 2#3 ++ v
  | .setHrs v => 3#3 ++ v
  | .bump n => 4#3 ++ n
  | .exit => 5#3 ++ 0#6

/-! ### SW10 (R62, R73) -/

/-- The six value bits of R62. -/
def swVal (w : SW10) : Payload := w.extractLsb' 0 6

/-- One row of the switch-word table of R73: the bits it fixes, their values, and the event. -/
structure Sw10Row where
  mask    : SW10
  pattern : SW10
  event   : Event

/-- The rows of R73 in the order of their priority (R111), for a switch word, the button level and the bump
amount. -/
def sw10Rows (w : SW10) (btnLvl : Bool) (bumpAmount : Payload) : List Sw10Row :=
  [ ⟨0b0010000000#10, 0b0010000000#10, .exit⟩,
    ⟨0b1110000000#10, 0b0100000000#10, .setSec (swVal w)⟩,
    ⟨0b1110000000#10, 0b1000000000#10, .setMin (swVal w)⟩,
    ⟨0b1110000000#10, 0b1100000000#10, .setHrs (swVal w)⟩,
    ⟨0b1110000000#10, 0b0000000000#10, if btnLvl then .bump bumpAmount else .noop⟩ ]

/-- The event of the first row whose fixed bits the word has (R73: "a decoder takes the first row that
matches"). -/
def firstMatch (w : SW10) : List Sw10Row → Event
  | [] => .noop
  | r :: rs => if w &&& r.mask = r.pattern then r.event else firstMatch w rs

/-- The event a switch word selects at the positions of R62 (R73). -/
def decodeSw10 (w : SW10) (btnLvl : Bool) (bumpAmount : Payload) : Event :=
  firstMatch w (sw10Rows w btnLvl bumpAmount)

/-! ### PEND2 (R64, R73) -/

/-- The operation a pending word selects: `1-` ACK, then `-1` TICK, then `--` EVT_EDGE (R73). A word with both bits
set is read as the button's, which is served first (R121; log entry 13). -/
def decodePend2 (w : PEND2) : Instr :=
  if w.getLsbD 1 then .ack else if w.getLsbD 0 then .tick else .evtEdge

/-! ### REG (R65, R41) -/

/-- The operation of a register access the table of R41 lists; the others are no operation. Data bits beyond those
the register uses are dropped (R41, R65). -/
def decodeReg : RegAccess → Except Reject Instr
  | .read .switches => .ok .rdSw
  | .read .buttonData => .ok .rdBtn
  | .read .buttonEdge => .ok .rdEdge
  | .read .timerStatus => .ok .rdTstat
  | .read .led | .read (.display _) | .read .timerControl | .read (.timerPeriod _) => .error .unlistedRead
  | .write (.buttonEdge d) => .ok (.ackEdge d)
  | .write (.timerStatus d) => .ok (.ackTstat d)
  | .write (.timerControl f) => .ok (.wrTctrl f)
  | .write (.timerPeriod h d) => .ok (.wrTper h (d.extractLsb' 0 16))
  | .write (.display k d) => .ok (.wrDisp k (d.extractLsb' 0 8))
  | .write (.led d) => .ok (.wrLed (d.extractLsb' 0 10))
  | .write (.switches _) | .write (.buttonData _) => .error .unlistedWrite

/-! ### The decoder -/

/-- The operation an invocation by rule is (format FN of R60). -/
def Invocation.toInstr : Invocation → Instr
  | .inc p => .inc p
  | .dec p => .dec p
  | .enc m s => .enc m s
  | .sample b w => .sample b w
  | .capture t a => .capture t a
  | .tcapture t a h => .tcapture t a h
  | .evtLevel => .evtLevel
  | .step => .step
  | .advance => .advance
  | .hourOvf o => .hourOvf o

/-- The operation a selection selects (R60, R73), for every selection; a register access the table does not list is
rejected by name. -/
def decode : Selection → Except Reject Instr
  | .ev9 w => .ok (decodeEv9 w).toInstr
  | .sw10 w b n => .ok (decodeSw10 w b n).toInstr
  | .pend2 w => .ok (decodePend2 w)
  | .reg a => decodeReg a
  | .portRst => .ok .reset
  | .portTime => .ok .rdTime
  | .fn c => .ok c.toInstr

/-! ### The encoder -/

/-- A selection that selects the operation, in the operation's own format of R60. -/
def encode : Instr → Selection
  | .inc p => .fn (.inc p)
  | .dec p => .fn (.dec p)
  | .enc m s => .fn (.enc m s)
  | .sample b w => .fn (.sample b w)
  | .capture t a => .fn (.capture t a)
  | .ack => .pend2 0b10#2
  | .tcapture t a h => .fn (.tcapture t a h)
  | .evtEdge => .pend2 0b00#2
  | .evtLevel => .fn .evtLevel
  | .step => .fn .step
  | .noop => .ev9 (encodeEv9 .noop)
  | .setSec v => .ev9 (encodeEv9 (.setSec v))
  | .setMin v => .ev9 (encodeEv9 (.setMin v))
  | .setHrs v => .ev9 (encodeEv9 (.setHrs v))
  | .bump n => .ev9 (encodeEv9 (.bump n))
  | .exit => .ev9 (encodeEv9 .exit)
  | .tick => .pend2 0b01#2
  | .advance => .fn .advance
  | .hourOvf o => .fn (.hourOvf o)
  | .reset => .portRst
  | .rdSw => .reg (.read .switches)
  | .rdBtn => .reg (.read .buttonData)
  | .rdEdge => .reg (.read .buttonEdge)
  | .ackEdge d => .reg (.write (.buttonEdge d))
  | .rdTstat => .reg (.read .timerStatus)
  | .ackTstat d => .reg (.write (.timerStatus d))
  | .wrTctrl f => .reg (.write (.timerControl f))
  | .wrTper h d => .reg (.write (.timerPeriod h (d.setWidth 32)))
  | .wrDisp k p => .reg (.write (.display k (p.setWidth 32)))
  | .wrLed d => .reg (.write (.led (d.setWidth 32)))
  | .rdTime => .portTime

/-! ### Words of the opcode table -/

/-- The format of a table word: words of at most one byte are PEND2, words of two bytes are EV9, or SW10 when
bit 9, which EV9 does not have, is set (log entry 13). -/
inductive TableWord where
  | pend2 (w : PEND2)
  | ev9 (w : EV9)
  | sw10 (w : SW10)
deriving DecidableEq, Repr

/-- The table word that `nbits` bits with the value `w` are, refused when it is wider than its format. -/
def readTableWord (nbits w : Nat) : Except Reject TableWord :=
  if nbits ≤ 8 then
    if w < 4 then .ok (.pend2 (BitVec.ofNat 2 w)) else .error .tooWide
  else if nbits ≤ 16 then
    if w < 512 then .ok (.ev9 (BitVec.ofNat 9 w))
    else if w < 1024 then .ok (.sw10 (BitVec.ofNat 10 w))
    else .error .tooWide
  else .error .tooWide

/-- The operation a table word selects. A switch word selects EVT_LEVEL, which reads it from `sw_lvl`. -/
def TableWord.instr : TableWord → Except Reject Instr
  | .pend2 w => decode (.pend2 w)
  | .ev9 w => decode (.ev9 w)
  | .sw10 _ => decode (.fn .evtLevel)

/-- The operation the decoder reads from a row's bits, `none` where it refuses them. -/
def decodeTableWord (nbits w : Nat) : Option Instr :=
  match readTableWord nbits w with
  | .ok t => t.instr.toOption
  | .error _ => none

end Sys2Proof
end

