-- ==== Sys2Proof/WellFormed.lean ====
section
/-! DEFINITION. Which instructions and parameters are well formed. -/

namespace Sys2Proof

/-- The operands the opcode table admits. Every operand type is exact but the digit index of WR_DISP, which is 0 to 5
(R149); an index beyond is not an encoding of the table, and the machine ignores it (R152). -/
def Instr.wf : Instr → Bool
  | .wrDisp k _ => k < 6
  | .inc _ | .dec _ | .enc _ _ | .sample _ _ | .capture _ _ | .ack | .tcapture _ _ _ | .evtEdge | .evtLevel
  | .step | .noop | .setSec _ | .setMin _ | .setHrs _ | .bump _ | .exit | .tick | .advance | .hourOvf _ | .reset
  | .rdSw | .rdBtn | .rdEdge | .ackEdge _ | .rdTstat | .ackTstat _ | .wrTctrl _ | .wrTper _ _ | .wrLed _
  | .rdTime => true

/-- The seeds meet R34. -/
def Params.seedsOk (c : Params) : Bool := validPT c.seedPacked && c.seedHours.toNat ≤ 99

/-- `N_TICKS ≥ 1` (R7), and `W_SUB = 4` bits hold it (R7: "smallest width holding N_TICKS"; log entry 16). -/
def Params.nTicksOk (c : Params) : Bool := 1 ≤ c.nTicks && c.nTicks ≤ 15

/-- The three fields of the switch word lie in its ten bits and do not overlap (R62; log entry 16). -/
def Params.layoutOk (c : Params) : Bool :=
  c.valLsb + 6 ≤ 10 && c.selLsb + 2 ≤ 10 && c.exitBit < 10 &&
    (c.valLsb + 6 ≤ c.selLsb || c.selLsb + 2 ≤ c.valLsb) &&
    !(c.valLsb ≤ c.exitBit && c.exitBit < c.valLsb + 6) &&
    !(c.selLsb ≤ c.exitBit && c.exitBit < c.selLsb + 2)

/-- A legal configuration: the pair of modes is not the refused one (D22), and the parameters meet R7 and R34. -/
def Params.legal (c : Params) : Bool := !c.refusedPair && c.seedsOk && c.nTicksOk && c.layoutOk

end Sys2Proof
end

