-- ==== Sys2Proof/Machine/State.lean ====
section
/-! DEFINITION. The state of the machine: the registers of 10_state.md R21 to R29, the neighbours' registers of R33, the
parameters, the input trace, and the model's own copies of wires and read results. -/

namespace Sys2Proof.Machine

/-- The registers of the neighbours that host operations write (R33, R148, R149, R190, R191). The core reads none
of them. -/
structure Neighbours where
  led          : BitVec 10
  disp         : Vector (BitVec 8) 6
  timerControl : TimerControl
  periodLow    : BitVec 16
  periodHigh   : BitVec 16
deriving DecidableEq, Repr

/-- The 32-bit Timer period: the low half is bits 15:0, the high half bits 31:16 (R43). -/
def Neighbours.period (n : Neighbours) : BitVec 32 := n.periodHigh ++ n.periodLow

/-- What the named wires carried when they were last driven (R30: wires hold no state; log entry 12). No operation
reads them. -/
structure Wires where
  ev      : EV9
  ackBtn  : Bool
  ackTick : Bool
  refresh : Bool
  inc     : IncOut
  dec     : DecOut
  enc     : PT16
deriving DecidableEq, Repr

/-- The results of RD_TIME (R192). -/
structure TimeRead where
  hours        : Hours
  packedTime   : PT16
  subTickCount : SubTick
  decMin       : Field7
  decSec       : Field7
  bcdErr       : Bool
  halted       : Bool
deriving DecidableEq, Repr

/-- The machine. -/
structure State where
  /-- The parameters of R7, fixed at construction (R68). -/
  cfg          : Params
  packedTime   : PT16
  hours        : Hours
  subTickCount : SubTick
  halted       : Bool
  tickPending  : Bool
  btnCap       : Bool
  btnLvl       : Bool
  swLvl        : SW10
  ext          : Neighbours
  wires        : Wires
  /-- What the host's last register read returned. -/
  hostRead     : BusWord
  /-- What the consumer's last read returned. -/
  timeRead     : TimeRead
  /-- The inputs of the present cycle and of those after it (R71); beyond its end the inputs are free. -/
  trace        : List Inputs
  /-- How many cycles have run: the argument of the free values. -/
  cycle        : Nat
deriving DecidableEq, Repr

/-- No operation of the core raises a synchronous exception, traps or aborts (R150), so there is no fault. -/
inductive Fault where
deriving DecidableEq, Repr

/-- Why a step gives no next state. -/
inductive Refusal where
  /-- Raised by an arm of `exec` whose instruction has no meaning in the model; no arm does. Safe. -/
  | notModelled (mnemonic : String)
  /-- Raised by STEP in the configuration (`IRQ`, `LEVEL`), which the spec refuses (R7, D22, U8). Safe: nothing is
  said of such a machine (log entry 8). -/
  | irqWithLevel
deriving DecidableEq, Repr

/-- What an operation answers. -/
abbrev Result := Host.Outcome State Fault Refusal

/-- The neighbours' registers before the host writes them. DESIGN CHOICE (log entry 7): all zero; the spec gives
them no value. -/
def Neighbours.initial : Neighbours :=
  { led := 0, disp := Vector.replicate 6 0, timerControl := ⟨false, false, false, false⟩, periodLow := 0,
    periodHigh := 0 }

/-- The wires before they are first driven. DESIGN CHOICE (log entry 12). -/
def Wires.initial : Wires :=
  { ev := 0, ackBtn := false, ackTick := false, refresh := false, inc := ⟨0, false, false⟩,
    dec := ⟨false, 0, 0⟩, enc := 0 }

/-- The consumer's result before its first read. DESIGN CHOICE (log entry 12). -/
def TimeRead.initial : TimeRead := ⟨0, 0, 0, 0, 0, false, false⟩

/-- The machine with parameters `c` right after reset (the table of R34), with nothing placed on its inputs. -/
def State.resetWith (c : Params) : State :=
  { cfg := c, packedTime := c.seedPacked, hours := c.seedHours, subTickCount := 0, halted := false,
    tickPending := false, btnCap := false, btnLvl := false, swLvl := 0, ext := .initial, wires := .initial,
    hostRead := 0, timeRead := .initial, trace := [], cycle := 0 }

/-- The machine right after reset, with the default parameters (log entries 2 and 3). -/
def State.reset : State := State.resetWith .default

end Sys2Proof.Machine
end

