-- ==== Sys2Proof/Machine/Operands.lean ====
section
/-! DEFINITION. Operand forms: the inputs of the present cycle (R31), the input wires of the core, the fields of the
switch word at the configured positions (R62), BCD digits (R81), and register reads (R41). -/

namespace Sys2Proof.Machine

/-- The inputs of the present cycle: the first of the trace, or free inputs when there is none (log entry 1). -/
def State.inputs (s : State) : Inputs :=
  match s.trace with
  | i :: _ => i
  | [] => Config.freeInputs s.cycle

/-- The host writes a 1 to bit 0 of Button edge-capture in an access of this cycle (R65, R145). -/
def writesBtnAck : Option RegAccess → Bool
  | some (.write (.buttonEdge d)) => d.getLsbD 0
  | _ => false

/-- The host writes a 1 to bit 0 of Timer status in an access of this cycle (R65, R147). -/
def writesTickAck : Option RegAccess → Bool
  | some (.write (.timerStatus d)) => d.getLsbD 0
  | _ => false

/-- The port `host_ack_btn` (R31): given as a port, or by a register access of the cycle (log entry 11). DESIGN CHOICE (log
entry 24): the port is live in every mode and every cycle and is ORed with the core's acknowledge as R104, R120 and D26
say; the tie to 0 that R145 asks of a model with an active internal dispatch in edge mode is left to the inputs. -/
def State.hostAckBtn (s : State) : Bool := s.inputs.hostAckBtn || writesBtnAck s.inputs.host

/-- The port `host_ack_tick` (R31), likewise (R113, R147; log entries 11 and 24). -/
def State.hostAckTick (s : State) : Bool := s.inputs.hostAckTick || writesTickAck s.inputs.host

/-- `active` of R120: a dispatch cycle (R12). -/
def State.active (s : State) : Bool := s.inputs.dispatchEn && !s.halted

/-- Edge recognition, the wire `trans` (R102). -/
def recogniseEdge : EdgeSel → Bool → Bool → Bool
  | .any, lvl, raw => lvl != raw
  | .rise, lvl, raw => !lvl && raw
  | .fall, lvl, raw => lvl && !raw

/-- The wire `trans` in the present cycle (R102). -/
def State.trans (s : State) : Bool := recogniseEdge s.cfg.edgeSel s.btnLvl s.inputs.btnRaw

/-- The word `{btn_cap, tick_pending}` a dispatch inspects (R64). -/
def State.pend2 (s : State) : PEND2 := BitVec.ofBool s.btnCap ++ BitVec.ofBool s.tickPending

/-- The select bits of a switch word (R110). -/
def selField (c : Params) (w : SW10) : BitVec 2 := w.extractLsb' c.selLsb 2

/-- The value bits of a switch word, unsigned (R110, R67). -/
def valField (c : Params) (w : SW10) : Payload := w.extractLsb' c.valLsb 6

/-- The exit bit of a switch word (R110). -/
def exitField (c : Params) (w : SW10) : Bool := w.getLsbD c.exitBit

/-- `BCD2(v)` of R81: tens digit in the high nibble, ones digit in the low nibble. -/
def bcd2 (v : Nat) : BitVec 8 := BitVec.ofNat 4 (v / 10) ++ BitVec.ofNat 4 (v % 10)

/-- The high byte of a packed time, minutes (R21). -/
def minByte (p : PT16) : BitVec 8 := p.extractLsb' 8 8

/-- The low byte of a packed time, seconds (R21). -/
def secByte (p : PT16) : BitVec 8 := p.extractLsb' 0 8

/-- What a read of a logical register returns (R41, R142 to R144, R146): the used bits, and free bits above them;
all bits are free for a write-only register (log entry 6). -/
def State.readReg (s : State) (r : LogReg) : BusWord :=
  let free := Config.unusedBits r s.cycle
  match r with
  | .switches => free.extractLsb' 10 22 ++ s.swLvl
  | .buttonData => free.extractLsb' 1 31 ++ BitVec.ofBool s.btnLvl
  | .buttonEdge => free.extractLsb' 1 31 ++ BitVec.ofBool s.btnCap
  | .timerStatus => free.extractLsb' 1 31 ++ BitVec.ofBool s.tickPending
  | .led | .display _ | .timerControl | .timerPeriod _ => free

end Sys2Proof.Machine
end

