-- ==== Sys2Proof/Machine/Ops.lean ====
section
/-! DEFINITION. The shared operations: the BCD codec (40_bcd_codec.md), the capture cell and the event derivation
(41_edge_detector.md), the updates of the clock state and the cycle (42_clock_state_mux.md), reset (R170), the host's
accesses (43_register_ops.md), and the named updates of the state. -/

namespace Sys2Proof.Machine

/-! ### Named updates of the state -/

def State.setTime (s : State) (p : PT16) (h : Hours) : State := { s with packedTime := p, hours := h }
def State.setSub (s : State) (c : SubTick) : State := { s with subTickCount := c }
def State.setHalted (s : State) (b : Bool) : State := { s with halted := b }
def State.setTickPending (s : State) (b : Bool) : State := { s with tickPending := b }
def State.setBtnCap (s : State) (b : Bool) : State := { s with btnCap := b }
def State.setSamples (s : State) (b : Bool) (w : SW10) : State := { s with btnLvl := b, swLvl := w }
def State.setExt (s : State) (e : Neighbours) : State := { s with ext := e }
def State.setWires (s : State) (w : Wires) : State := { s with wires := w }
def State.setHostRead (s : State) (d : BusWord) : State := { s with hostRead := d }
def State.setTimeRead (s : State) (t : TimeRead) : State := { s with timeRead := t }

/-- The end of a cycle: the inputs of the next one come up. -/
def State.nextCycle (s : State) : State := { s with trace := s.trace.tail, cycle := s.cycle + 1 }

/-! ### The BCD codec -/

/-- The five cases of R82, for a valid packed time. -/
def incDigits (p : PT16) : PT16 :=
  let mt := minTens p
  let mo := minOnes p
  let st := secTens p
  let so := secOnes p
  if so ≠ 9 then packDigits mt mo st (so + 1)
  else if st ≠ 5 then packDigits mt mo (st + 1) 0
  else if mo ≠ 9 then packDigits mt (mo + 1) 0 0
  else if mt ≠ 5 then packDigits (mt + 1) 0 0 0
  else packDigits 0 0 0 0

/-- One decimal lane of the packed-field adder with limit `lim` (R83): the new digit and the carry out. R83 gives the
cases `d = lim` and `d < lim`. DESIGN CHOICE (log entry 4): a digit above its limit with a carry in becomes `d + 1`
without a carry out; no meaning uses the lane form, and on a valid word the case does not arise. -/
def lane (lim d : BitVec 4) (cin : Bool) : BitVec 4 × Bool :=
  if cin then (if d = lim then (0, true) else (d + 1, false)) else (d, false)

/-- The lane form of INC (R83): the result and the carries out of lanes 1 and 3. -/
def incLanes (p : PT16) : PT16 × Bool × Bool :=
  let l0 := lane 9 (secOnes p) true
  let l1 := lane 5 (secTens p) l0.2
  let l2 := lane 9 (minOnes p) l1.2
  let l3 := lane 5 (minTens p) l2.2
  (packDigits l3.1 l2.1 l1.1 l0.1, l1.2, l3.2)

/-- INC (R82, R84): `sec_wrap` exactly when the seconds went 59 to 00, `hour_ovf` exactly when the result is zero;
outside `ValidPT` every output is free (R85, log entry 4). -/
def inc (p : PT16) : IncOut :=
  if validPT p then
    { q := incDigits p, secWrap := secTens p == 5 && secOnes p == 9, hourOvf := incDigits p == 0 }
  else Config.incOutside p

/-- No nibble exceeds 9: the output `ok` of DEC (R86). -/
def digitsOk (p : PT16) : Bool :=
  (minTens p).toNat ≤ 9 && (minOnes p).toNat ≤ 9 && (secTens p).toNat ≤ 9 && (secOnes p).toNat ≤ 9

/-- The minutes of R86 as a natural. -/
def minutesOf (p : PT16) : Nat := (minTens p).toNat * 10 + (minOnes p).toNat

/-- The seconds of R86 as a natural. -/
def secondsOf (p : PT16) : Nat := (secTens p).toNat * 10 + (secOnes p).toNat

/-- DEC (R86); when it fails, minutes and seconds are free (log entry 5). -/
def dec (p : PT16) : DecOut :=
  if digitsOk p then
    { ok := true, m := BitVec.ofNat 7 (minutesOf p), s := BitVec.ofNat 7 (secondsOf p) }
  else { ok := false, m := (Config.decOutside p).1, s := (Config.decOutside p).2 }

/-- ENC (R87). -/
def enc (m s : Nat) : PT16 := bcd2 (m % 60) ++ bcd2 (s % 60)

/-! ### The edge detector -/

/-- The capture cell of R103 and R113: a set wins over an acknowledge. -/
def captureCell (set cap ackIn : Bool) : Bool := set || (cap && !ackIn)

/-- What the event derivation produces (R107, R110). -/
structure EventOut where
  ev     : EV9
  ackBtn : Bool
deriving DecidableEq, Repr

/-- The outputs of the event derivation outside a dispatch cycle (R107, R110). -/
def EventOut.idle : EventOut := ⟨encodeEv9 .noop, false⟩

/-- EVT_EDGE (R107). -/
def evtEdge (c : Params) (btnCap btnLvl : Bool) : EventOut :=
  if btnCap then ⟨encodeEv9 (if btnLvl then .bump c.bumpAmount else .noop), true⟩ else .idle

/-- The event of EVT_LEVEL, at the configured switch positions (R110). -/
def levelEvent (c : Params) (sw : SW10) (btnLvl : Bool) : Event :=
  if exitField c sw then .exit
  else if selField c sw = 1 then .setSec (valField c sw)
  else if selField c sw = 2 then .setMin (valField c sw)
  else if selField c sw = 3 then .setHrs (valField c sw)
  else if btnLvl then .bump c.bumpAmount
  else .noop

/-- EVT_LEVEL (R110): it never acknowledges. -/
def evtLevel (c : Params) (sw : SW10) (btnLvl : Bool) : EventOut := ⟨encodeEv9 (levelEvent c sw btnLvl), false⟩

/-! ### The clock state: events -/

/-- What an event reads and writes (R122): `(pt, hr, hl)`. -/
structure Clock where
  packedTime : PT16
  hours      : Hours
  halted     : Bool
deriving DecidableEq, Repr

/-- SET_SEC (R124). -/
def Clock.setSec (v : Payload) (c : Clock) : Clock :=
  { c with packedTime := minByte c.packedTime ++ bcd2 (v.toNat % 60) }

/-- SET_MIN (R125). -/
def Clock.setMin (v : Payload) (c : Clock) : Clock :=
  { c with packedTime := bcd2 (v.toNat % 60) ++ secByte c.packedTime }

/-- SET_HRS (R126). -/
def Clock.setHrs (v : Payload) (c : Clock) : Clock := { c with hours := BitVec.ofNat 7 (v.toNat % hoursMod) }

/-- BUMP (R127), for any natural amount; an invalid packed time is left alone. -/
def Clock.bump (n : Nat) (c : Clock) : Clock :=
  let d := dec c.packedTime
  if d.ok then
    let tot := 60 * d.m.toNat + d.s.toNat + n
    { c with hours := BitVec.ofNat 7 ((c.hours.toNat + tot / 3600) % hoursMod),
             packedTime := enc (tot % 3600 / 60) (tot % 60) }
  else c

/-- EXIT (R129). -/
def Clock.exit (c : Clock) : Clock := { c with halted := true }

/-- `apply` of R122. -/
def applyEvent : Event → Clock → Clock
  | .noop, c => c
  | .setSec v, c => c.setSec v
  | .setMin v, c => c.setMin v
  | .setHrs v, c => c.setHrs v
  | .bump n, c => c.bump n.toNat
  | .exit, c => c.exit

/-! ### The clock state: the periodic path -/

/-- HOUR_OVF (R132). -/
def hourCarry (h : Hours) (ovf : Bool) : Hours :=
  if ovf then BitVec.ofNat 7 ((h.toNat + 1) % hoursMod) else h

/-- The result of TICK and ADVANCE, and whether an advance was performed (R130, R131, R135). -/
structure TickOut where
  packedTime   : PT16
  hours        : Hours
  subTickCount : SubTick
  refresh      : Bool
deriving DecidableEq, Repr

/-- ADVANCE (R131). -/
def advance (p : PT16) (h : Hours) : TickOut :=
  { packedTime := (inc p).q, hours := hourCarry h (inc p).hourOvf, subTickCount := 0, refresh := true }

/-- TICK (R130). -/
def tick (nTicks : Nat) (p : PT16) (h : Hours) (sub : SubTick) : TickOut :=
  let c := sub.toNat + 1
  if nTicks ≤ c then advance p h
  else { packedTime := p, hours := h, subTickCount := BitVec.ofNat 4 c, refresh := false }

/-! ### The cycle (R120) -/

/-- The event and the acknowledge of the present cycle (R120, phase 1, first half). -/
def State.event (s : State) : EventOut :=
  if s.active then
    match s.cfg.inputMode with
    | .edge => evtEdge s.cfg s.btnCap s.btnLvl
    | .level => evtLevel s.cfg s.swLvl s.btnLvl
  else .idle

/-- The registers an event reads and writes. -/
def State.clock (s : State) : Clock := ⟨s.packedTime, s.hours, s.halted⟩

/-- `(pt1, hr1, hl1)` of R120: the event bus decoded, and its event applied. -/
def State.phase1 (s : State) : Clock := applyEvent (decodeEv9 s.event.ev) s.clock

/-- `serve_tick` of R120 (R121). -/
def State.serveTick (s : State) : Bool :=
  s.active && s.tickPending && !s.phase1.halted && (s.cfg.dispatchMode == .poll || !s.btnCap)

/-- `(pt2, hr2, sub2)` of R120, on the result of phase 1 (R134). -/
def State.phase2 (s : State) : TickOut :=
  let c := s.phase1
  if s.serveTick then tick s.cfg.nTicks c.packedTime c.hours s.subTickCount
  else { packedTime := c.packedTime, hours := c.hours, subTickCount := s.subTickCount, refresh := false }

/-- The wires of the present cycle (log entry 12). -/
def State.cycleWires (s : State) : Wires :=
  { s.wires with
    ev := s.event.ev, ackBtn := s.event.ackBtn, ackTick := s.serveTick, refresh := s.phase2.refresh,
    inc := inc s.phase1.packedTime, dec := dec s.packedTime }

/-- The registers at the edge that ends a cycle with `rst = 0` (R120). -/
def State.runCycle (s : State) : State :=
  { s with
    packedTime := s.phase2.packedTime
    hours := s.phase2.hours
    subTickCount := s.phase2.subTickCount
    halted := s.phase1.halted
    btnLvl := s.inputs.btnRaw
    swLvl := s.inputs.swRaw
    btnCap := captureCell s.trans s.btnCap (s.event.ackBtn || s.hostAckBtn)
    tickPending := captureCell s.inputs.tmrTimeout s.tickPending (s.serveTick || s.hostAckTick)
    wires := s.cycleWires }

/-- The wires of a reset cycle: no event, no acknowledge, no advance (R107, R135). -/
def Wires.quiet (w : Wires) : Wires :=
  { w with ev := encodeEv9 .noop, ackBtn := false, ackTick := false, refresh := false }

/-- RESET (R170): every register of the core, nothing of the neighbours (R171). -/
def State.applyReset (s : State) : State :=
  { s with
    packedTime := s.cfg.seedPacked
    hours := s.cfg.seedHours
    subTickCount := 0
    halted := false
    tickPending := false
    btnCap := false
    btnLvl := false
    swLvl := 0
    wires := s.wires.quiet }

/-! ### One operation alone (log entries 9 and 10) -/

/-- An update of the clock state, unless the core is halted (R25). -/
def State.mapClock (s : State) (f : Clock → Clock) : State :=
  if s.halted then s
  else (s.setTime (f s.clock).packedTime (f s.clock).hours).setHalted (f s.clock).halted

/-- The effect of an acknowledge of the button's capture bit in the present cycle (R104). -/
def State.ackCapture (s : State) (ackIn : Bool) : State :=
  if ackIn then s.setBtnCap (captureCell s.trans s.btnCap true) else s

/-- The effect of an acknowledge of the timer's pending bit in the present cycle (R113). -/
def State.ackTimer (s : State) (ackIn : Bool) : State :=
  if ackIn then s.setTickPending (captureCell s.inputs.tmrTimeout s.tickPending true) else s

/-- The event bus carries an event. -/
def State.driveEvent (s : State) (e : EventOut) : State :=
  s.setWires { s.wires with ev := e.ev, ackBtn := e.ackBtn }

/-- The result of TICK or ADVANCE goes to the registers, INC's outputs and `refresh` to their wires. -/
def State.applyTick (s : State) (t : TickOut) : State :=
  ((s.setTime t.packedTime t.hours).setSub t.subTickCount).setWires
    { s.wires with refresh := t.refresh, inc := inc s.packedTime }

/-- The wire `ack_tick` is raised (R130). -/
def State.driveAckTick (s : State) : State := s.setWires { s.wires with ackTick := true }

/-! ### The host and the consumer -/

/-- The ports the consumer reads (R192, R32). -/
def State.timePorts (s : State) : TimeRead :=
  { hours := s.hours, packedTime := s.packedTime, subTickCount := s.subTickCount,
    decMin := (dec s.packedTime).m, decSec := (dec s.packedTime).s, bcdErr := !(dec s.packedTime).ok,
    halted := s.halted }

/-- A write to Display `k`; an index beyond 5 is ignored (R149, R152). -/
def Neighbours.setDisplay (n : Neighbours) (k : Nat) (p : BitVec 8) : Neighbours :=
  if h : k < 6 then { n with disp := n.disp.set k p } else n

/-- A write to a half of Timer period (R190). -/
def Neighbours.setPeriod (n : Neighbours) (half : PeriodHalf) (d : BitVec 16) : Neighbours :=
  match half with
  | .low => { n with periodLow := d }
  | .high => { n with periodHigh := d }

/-- A write's effect on the neighbours: the acknowledges and the writes R41 does not list have none. -/
def Neighbours.write (n : Neighbours) : RegWrite → Neighbours
  | .led d => { n with led := d.extractLsb' 0 10 }
  | .display k d => n.setDisplay k (d.extractLsb' 0 8)
  | .timerControl f => { n with timerControl := f }
  | .timerPeriod h d => n.setPeriod h (d.extractLsb' 0 16)
  | .switches _ | .buttonData _ | .buttonEdge _ | .timerStatus _ => n

/-- The word a register access leaves for the host (R142 to R144, R146); a write leaves the last one. -/
def State.wordAfter (s : State) : Option RegAccess → BusWord
  | some (.read r) => s.readReg r
  | some (.write _) | none => s.hostRead

/-- The neighbours after a register access (R148, R149, R190, R191). -/
def Neighbours.after (n : Neighbours) : Option RegAccess → Neighbours
  | some (.write w) => n.write w
  | some (.read _) | none => n

/-- What the host and the consumer do in the present cycle before the edge that ends it, on the registers as they are
at its start: a read returns its word, a write reaches the neighbours. The acknowledges act at the edge, through the
ports `host_ack_btn` and `host_ack_tick` (log entry 11). -/
def State.hostPhase (s : State) : State :=
  { s with
    hostRead := s.wordAfter s.inputs.host
    ext := s.ext.after s.inputs.host
    timeRead := if s.inputs.rdTime then s.timePorts else s.timeRead }

end Sys2Proof.Machine
end

