-- ==== Sys2Proof/Machine/ClockStateMux.lean ====
section
/-! DEFINITION. The operations of clock_state_mux (42_clock_state_mux.md). An event or a tick performed alone leaves
the clock state of a halted core as it is (R25; log entry 10). -/

namespace Sys2Proof.Machine

/-- STEP (R120): the whole cycle, RESET included. The configuration (`IRQ`, `LEVEL`) is refused (R7, U8). -/
def execStep (s : State) : Result :=
  if s.cfg.refusedPair then .refused .irqWithLevel
  else .next (if s.inputs.rst then s.applyReset else s.runCycle)

/-- NOOP (R123). -/
def execNoop (s : State) : Result := .next s

/-- SET_SEC (R124). -/
def execSetSec (v : Payload) (s : State) : Result := .next (s.mapClock (Clock.setSec v))

/-- SET_MIN (R125). -/
def execSetMin (v : Payload) (s : State) : Result := .next (s.mapClock (Clock.setMin v))

/-- SET_HRS (R126). -/
def execSetHrs (v : Payload) (s : State) : Result := .next (s.mapClock (Clock.setHrs v))

/-- BUMP (R127). -/
def execBump (n : Payload) (s : State) : Result := .next (s.mapClock (Clock.bump n.toNat))

/-- EXIT (R129). -/
def execExit (s : State) : Result := .next (s.mapClock Clock.exit)

/-- TICK (R130): it always acknowledges, and advances on the last tick of a second. -/
def execTick (s : State) : Result :=
  if s.halted then .next s
  else .next (((s.applyTick (tick s.cfg.nTicks s.packedTime s.hours s.subTickCount)).driveAckTick).ackTimer true)

/-- ADVANCE (R131). -/
def execAdvance (s : State) : Result :=
  if s.halted then .next s else .next (s.applyTick (advance s.packedTime s.hours))

/-- HOUR_OVF (R132). -/
def execHourOvf (ovf : Bool) (s : State) : Result :=
  if s.halted then .next s else .next (s.setTime s.packedTime (hourCarry s.hours ovf))

end Sys2Proof.Machine
end

