-- ==== Sys2Proof/Machine/Codec.lean ====
section
/-! DEFINITION. The codec operations (40_bcd_codec.md): each shows its outputs on its wires and touches no register. -/

namespace Sys2Proof.Machine

/-- INC (R82 to R85). -/
def execInc (p : PT16) (s : State) : Result := .next (s.setWires { s.wires with inc := inc p })

/-- DEC (R86). -/
def execDec (p : PT16) (s : State) : Result := .next (s.setWires { s.wires with dec := dec p })

/-- ENC (R87). -/
def execEnc (m n : Nat) (s : State) : Result := .next (s.setWires { s.wires with enc := enc m n })

end Sys2Proof.Machine
end

