-- ==== Sys2Proof/Machine/EdgeDetector.lean ====
section
/-! DEFINITION. The operations of debounce_edge_detector (41_edge_detector.md). -/

namespace Sys2Proof.Machine

/-- SAMPLE (R101). -/
def execSample (btnRaw : Bool) (swRaw : SW10) (s : State) : Result := .next (s.setSamples btnRaw swRaw)

/-- CAPTURE (R103). -/
def execCapture (trans ackIn : Bool) (s : State) : Result := .next (s.setBtnCap (captureCell trans s.btnCap ackIn))

/-- ACK (R104): the capture bit is acknowledged in the present cycle. -/
def execAck (s : State) : Result := .next (s.ackCapture true)

/-- TCAPTURE (R113). -/
def execTcapture (tmrTimeout ackTick hostAckTick : Bool) (s : State) : Result :=
  .next (s.setTickPending (captureCell tmrTimeout s.tickPending (ackTick || hostAckTick)))

/-- EVT_EDGE (R107): outside a dispatch cycle the event is NOOP and nothing is acknowledged. R107 and R120 give the
operation in `INPUT_MODE = EDGE` only. DESIGN CHOICE (log entry 23): performed alone in level mode it has the same effect,
the acknowledge included. -/
def execEvtEdge (s : State) : Result :=
  let o := if s.active then evtEdge s.cfg s.btnCap s.btnLvl else .idle
  .next ((s.driveEvent o).ackCapture o.ackBtn)

/-- EVT_LEVEL (R110). R110 and R120 give the operation in `INPUT_MODE = LEVEL` only. DESIGN CHOICE (log entry 23):
performed alone in edge mode it has the same effect. -/
def execEvtLevel (s : State) : Result :=
  .next (s.driveEvent (if s.active then evtLevel s.cfg s.swLvl s.btnLvl else .idle))

end Sys2Proof.Machine
end

