-- ==== Sys2Proof/Machine/HostOps.lean ====
section
/-! DEFINITION. The host register operations (43_register_ops.md). -/

namespace Sys2Proof.Machine

/-- RD_SW (R142). -/
def execRdSw (s : State) : Result := .next (s.setHostRead (s.readReg .switches))

/-- RD_BTN (R143). -/
def execRdBtn (s : State) : Result := .next (s.setHostRead (s.readReg .buttonData))

/-- RD_EDGE (R144): reading does not clear. -/
def execRdEdge (s : State) : Result := .next (s.setHostRead (s.readReg .buttonEdge))

/-- ACK_EDGE (R145): bit 0 of the data is the host's acknowledge of this cycle. -/
def execAckEdge (d : BusWord) (s : State) : Result := .next (s.ackCapture (d.getLsbD 0))

/-- RD_TSTAT (R146). -/
def execRdTstat (s : State) : Result := .next (s.setHostRead (s.readReg .timerStatus))

/-- ACK_TSTAT (R147). -/
def execAckTstat (d : BusWord) (s : State) : Result := .next (s.ackTimer (d.getLsbD 0))

/-- WR_TCTRL (R148): nothing of the core changes; the external timer's register takes the four bits. -/
def execWrTctrl (f : TimerControl) (s : State) : Result := .next (s.setExt { s.ext with timerControl := f })

/-- WR_TPER (R190). -/
def execWrTper (half : PeriodHalf) (d : BitVec 16) (s : State) : Result := .next (s.setExt (s.ext.setPeriod half d))

/-- WR_DISP (R149): an index beyond 5 is ignored. -/
def execWrDisp (k : Nat) (pattern : BitVec 8) (s : State) : Result := .next (s.setExt (s.ext.setDisplay k pattern))

/-- WR_LED (R191). -/
def execWrLed (d : BitVec 10) (s : State) : Result := .next (s.setExt { s.ext with led := d })

/-- RD_TIME (R192). -/
def execRdTime (s : State) : Result := .next (s.setTimeRead s.timePorts)

end Sys2Proof.Machine
end

