-- ==== Sys2Proof/Machine/ResetOp.lean ====
section
/-! DEFINITION. The reset operation (70_reset_and_hazards.md). -/

namespace Sys2Proof.Machine

/-- RESET (R170). -/
def execReset (s : State) : Result := .next s.applyReset

end Sys2Proof.Machine
end

