-- ==== Sys2Proof/Machine/Dispatch.lean ====
section
/-! DEFINITION. One arm per operation: its effect when it is performed alone in the present cycle (log entry 9). -/

namespace Sys2Proof.Machine

def exec (i : Instr) (s : State) : Host.Outcome State Fault Refusal :=
  match i with
  | .inc p => Sys2Proof.Machine.execInc p s
  | .dec p => Sys2Proof.Machine.execDec p s
  | .enc m n => Sys2Proof.Machine.execEnc m n s
  | .sample b w => Sys2Proof.Machine.execSample b w s
  | .capture t a => Sys2Proof.Machine.execCapture t a s
  | .ack => Sys2Proof.Machine.execAck s
  | .tcapture t a h => Sys2Proof.Machine.execTcapture t a h s
  | .evtEdge => Sys2Proof.Machine.execEvtEdge s
  | .evtLevel => Sys2Proof.Machine.execEvtLevel s
  | .step => Sys2Proof.Machine.execStep s
  | .noop => Sys2Proof.Machine.execNoop s
  | .setSec v => Sys2Proof.Machine.execSetSec v s
  | .setMin v => Sys2Proof.Machine.execSetMin v s
  | .setHrs v => Sys2Proof.Machine.execSetHrs v s
  | .bump n => Sys2Proof.Machine.execBump n s
  | .exit => Sys2Proof.Machine.execExit s
  | .tick => Sys2Proof.Machine.execTick s
  | .advance => Sys2Proof.Machine.execAdvance s
  | .hourOvf o => Sys2Proof.Machine.execHourOvf o s
  | .reset => Sys2Proof.Machine.execReset s
  | .rdSw => Sys2Proof.Machine.execRdSw s
  | .rdBtn => Sys2Proof.Machine.execRdBtn s
  | .rdEdge => Sys2Proof.Machine.execRdEdge s
  | .ackEdge d => Sys2Proof.Machine.execAckEdge d s
  | .rdTstat => Sys2Proof.Machine.execRdTstat s
  | .ackTstat d => Sys2Proof.Machine.execAckTstat d s
  | .wrTctrl f => Sys2Proof.Machine.execWrTctrl f s
  | .wrTper h d => Sys2Proof.Machine.execWrTper h d s
  | .wrDisp k p => Sys2Proof.Machine.execWrDisp k p s
  | .wrLed d => Sys2Proof.Machine.execWrLed d s
  | .rdTime => Sys2Proof.Machine.execRdTime s

end Sys2Proof.Machine
end

