-- ==== Sys2Proof/Machine/Flags.lean ====
section
/-! DEFINITION. The status outputs, functions of the state and the inputs of the present cycle (10_state.md R30, R32), and
what the neighbours show (R129, R153). There are no condition codes (R30). -/

namespace Sys2Proof.Machine

/-- The port `dec_min` (R32). -/
def State.decMin (s : State) : Field7 := (dec s.packedTime).m

/-- The port `dec_sec` (R32). -/
def State.decSec (s : State) : Field7 := (dec s.packedTime).s

/-- The port `bcd_err` (R86, R151). -/
def State.bcdErr (s : State) : Bool := !(dec s.packedTime).ok

/-- The wire `sec_wrap` of the INC block in the present cycle (R84). R131 feeds the block the result of phase 1 when
ADVANCE is performed. DESIGN CHOICE (log entry 22): in every other cycle, a reset cycle among them, it is fed the phase 1
that the other inputs of the cycle give. -/
def State.secWrap (s : State) : Bool := (inc s.phase1.packedTime).secWrap

/-- The wire `hour_ovf` of the INC block in the present cycle (R84), with the input of `secWrap`. DESIGN CHOICE (log entry
22) in a cycle that performs no advance, a reset cycle among them. -/
def State.hourOvf (s : State) : Bool := (inc s.phase1.packedTime).hourOvf

/-- The port `refresh`: 1 in exactly the cycles that perform an advance (R135). -/
def State.refresh (s : State) : Bool := !s.inputs.rst && s.phase2.refresh

/-- The port `irq` (R136). -/
def State.irq (s : State) : Bool :=
  match s.cfg.dispatchMode with
  | .irq => (s.btnCap || s.tickPending) && !s.halted
  | .poll => false

/-- The segment pattern of a digit: the two entries the spec gives, free values for the others (R149, U15; log
entry 18). -/
def segmentPattern (d : Nat) : BitVec 8 :=
  if d = 0 then 0xC0 else if d = 9 then 0x90 else Config.segPattern d

/-- What a digit register of the display projector holds after it is asked to show `d`: a digit above 9 is rejected
and the prior content stays (R153). -/
def renderDigit (prior : BitVec 8) (d : Nat) : BitVec 8 := if d ≤ 9 then segmentPattern d else prior

/-- Six digit patterns, each named by the digit it shows (R153). Which display shows which digit is not said (R149; log
entry 18). -/
structure DigitPatterns where
  hoursTens : BitVec 8
  hoursOnes : BitVec 8
  minTens   : BitVec 8
  minOnes   : BitVec 8
  secTens   : BitVec 8
  secOnes   : BitVec 8
deriving DecidableEq, Repr

/-- `render` of the display projector (R153): each quantity is decomposed into tens and ones, and each digit is mapped to
its pattern; a digit above 9 leaves its place as it was. -/
def render (prior : DigitPatterns) (hours minutes seconds : Nat) : DigitPatterns :=
  { hoursTens := renderDigit prior.hoursTens (hours / 10)
    hoursOnes := renderDigit prior.hoursOnes (hours % 10)
    minTens := renderDigit prior.minTens (minutes / 10)
    minOnes := renderDigit prior.minOnes (minutes % 10)
    secTens := renderDigit prior.secTens (seconds / 10)
    secOnes := renderDigit prior.secOnes (seconds % 10) }

/-- What the display projector makes of the ports `hours`, `dec_min` and `dec_sec` of the present cycle (R32, R153); it
does nothing when the decoding fails (R86, R151). -/
def State.rendered (s : State) (prior : DigitPatterns) : DigitPatterns :=
  if s.bcdErr then prior else render prior s.hours.toNat s.decMin.toNat s.decSec.toNat

/-- What the LEDs and displays show: the host's patterns, and the end-state pattern once the core has halted (R129;
log entry 17). -/
def State.shown (s : State) : OutputPattern :=
  if s.halted then Config.endPattern else ⟨s.ext.led, s.ext.disp⟩

end Sys2Proof.Machine
end

