-- ==== Sys2Proof/Machine/Load.lean ====
section
/-! DEFINITION. How an operation that bits select is placed before the machine: the registers, the mode and the input
line that make the next cycle's dispatch select it (log entry 1). The lines are held steady, so that the cycle adds no
transition of its own. -/

namespace Sys2Proof.Machine

/-- The next cycle is a dispatch cycle with steady lines. -/
def State.dispatchNext (s : State) : State :=
  { s with halted := false, trace := Inputs.line s.btnLvl s.swLvl false true :: s.trace }

/-- Level-polled mode with the switch positions of R62. -/
def levelPolled (c : Params) : Params :=
  { c with dispatchMode := .poll, inputMode := .level, valLsb := 0, selLsb := 8, exitBit := 7 }

/-- The switch word is already sampled. -/
def State.placeSwitch (s : State) (w : SW10) : State :=
  State.dispatchNext { s with cfg := levelPolled s.cfg, swLvl := w }

/-- The registers from which EVT_LEVEL derives an event (R110); a bump amount is the parameter `BUMP_AMOUNT`. -/
def State.placeEvent (s : State) : Event → State
  | .noop => State.placeSwitch { s with btnLvl := false } 0
  | .setSec v => s.placeSwitch (swWord 1 v.toNat)
  | .setMin v => s.placeSwitch (swWord 2 v.toNat)
  | .setHrs v => s.placeSwitch (swWord 3 v.toNat)
  | .bump n => State.placeSwitch { s with cfg := { s.cfg with bumpAmount := n }, btnLvl := true } 0
  | .exit => s.placeSwitch swExit

/-- The pending word is as given, in edge-triggered mode. -/
def State.placePending (s : State) (w : PEND2) : State :=
  State.dispatchNext
    { s with cfg := { s.cfg with dispatchMode := .poll, inputMode := .edge },
             btnCap := w.getLsbD 1, tickPending := w.getLsbD 0 }

/-- A table word is placed before the machine. -/
def State.place (s : State) : TableWord → State
  | .pend2 w => s.placePending w
  | .ev9 w => s.placeEvent (decodeEv9 w)
  | .sw10 w => s.placeSwitch w

end Sys2Proof.Machine
end

