-- ==== Sys2Proof/Machine/Step.lean ====
section
/-! DEFINITION. One cycle of the machine. There is no program counter and no fetch (R26): at every rising edge the core
performs STEP. -/

namespace Sys2Proof.Machine

/-- One cycle: the host's and the consumer's accesses of the cycle, STEP at the edge that ends it, and then the inputs
of the next cycle. -/
def step (s : State) : Host.Outcome State Fault Refusal :=
  match exec .step s.hostPhase with
  | .next t => .next t.nextCycle
  | .fault f => .fault f
  | .refused r => .refused r

/-- The state in which the next cycle's dispatch selects the operation of a table word; a word the decoder refuses
places nothing. -/
def State.withFetchWord (s : State) (nbits w : Nat) : State :=
  match readTableWord nbits w with
  | .ok t => s.place t
  | .error _ => s

end Sys2Proof.Machine
end

