-- ==== Sys2Proof/Safety.lean ====
section
/-! DEFINITION. What counts as a good state and as a safe run. -/

namespace Sys2Proof.Machine

/-- The invariant of ClockState (10_state.md R24): `ValidPT(packed_time)`, `hours ≤ 99`, `sub_tick_count < N_TICKS`. -/
def State.ClockInv (s : State) : Prop :=
  validPT s.packedTime = true ∧ s.hours.toNat ≤ 99 ∧ s.subTickCount.toNat < s.cfg.nTicks

/-- A state of a machine with a legal configuration that meets the invariant. -/
def State.Inv (s : State) : Prop := s.cfg.legal = true ∧ s.ClockInv

/-- The registers of the core (R34), without the model's own fields and the neighbours. -/
structure CoreRegs where
  packedTime   : PT16
  hours        : Hours
  subTickCount : SubTick
  halted       : Bool
  tickPending  : Bool
  btnCap       : Bool
  btnLvl       : Bool
  swLvl        : SW10
deriving DecidableEq, Repr

/-- The core's registers in a state. -/
def State.core (s : State) : CoreRegs :=
  ⟨s.packedTime, s.hours, s.subTickCount, s.halted, s.tickPending, s.btnCap, s.btnLvl, s.swLvl⟩

/-- A run is safe when every number of cycles ends in a state that meets the invariant: no stop, no broken clock. -/
def State.SafeRun (s : State) : Prop := ∀ k, ∃ t : State, Sys2Proof.core.run k s = .next t ∧ t.Inv

end Sys2Proof.Machine
end

