-- ==== Sys2Proof/Certificates/Slice0/Obligations.lean ====
section
/-! DEFINITION. The statements for the provers, from the numbered rules of spec/. There is no memory and no program counter
(R26, R40), so a frame speaks of registers, neighbours, wires and parameters: it is given by the whole next state. -/

open Sys2Proof Sys2Proof.Machine

/-! ### Encoding -/

/-- R60, R63 to R66, R73: decoding what the encoder writes gives the instruction back, every operand at every value. -/
def Obligations.DecodeOfEncodeIsTheInstruction : Prop :=
  ∀ i : Instr, i.wf = true → decode (encode i) = .ok i

/-- R62 to R64, R73, S5 to S7: words written out from the patterns of the opcode table. -/
def Obligations.WrittenOutWordsDecode : Prop :=
  decode (.ev9 0b001101010#9) = .ok (.setSec 42) ∧ decode (.ev9 0b010000111#9) = .ok (.setMin 7) ∧
  decode (.ev9 0b011000101#9) = .ok (.setHrs 5) ∧ decode (.ev9 0b100000010#9) = .ok (.bump 2) ∧
  decode (.ev9 0b101111111#9) = .ok .exit ∧ decode (.ev9 0b111000001#9) = .ok .noop ∧
  decode (.sw10 0b0100101010#10 true 2) = .ok (.setSec 42) ∧ decode (.sw10 0b1001000111#10 false 2) = .ok (.setMin 7) ∧
  decode (.pend2 0b10#2) = .ok .ack ∧ decode (.pend2 0b01#2) = .ok .tick ∧ decode (.pend2 0b00#2) = .ok .evtEdge

/-- R63, R68: the kind selects the event, the payload is its operand, kinds 6 and 7 act as NOOP; the payload of an
event that has none is ignored. -/
def Obligations.EveryEventWordDecodesByItsKind : Prop :=
  ∀ (k : BitVec 3) (v : Payload),
    decode (.ev9 (k ++ v)) = .ok
      (if k = 1 then .setSec v else if k = 2 then .setMin v else if k = 3 then .setHrs v
       else if k = 4 then .bump v else if k = 5 then .exit else .noop)

/-! ### The codec -/

/-- R80: `ValidPT` is the bound on each nibble, and the valid words are in one-to-one correspondence with the pairs of
minutes and seconds 0 to 59, so that there are exactly 3600. -/
def Obligations.ValidWordsAreThePairsOfMinutesAndSeconds : Prop :=
  (∀ p : PT16, validPT p = true ↔
    (p.extractLsb' 12 4).toNat ≤ 5 ∧ (p.extractLsb' 8 4).toNat ≤ 9 ∧ (p.extractLsb' 4 4).toNat ≤ 5 ∧
      (p.extractLsb' 0 4).toNat ≤ 9) ∧
  (∀ p : PT16, validPT p = true →
    minutesOf p < 60 ∧ secondsOf p < 60 ∧ enc (minutesOf p) (secondsOf p) = p) ∧
  (∀ m n : Nat, m < 60 → n < 60 →
    validPT (enc m n) = true ∧ minutesOf (enc m n) = m ∧ secondsOf (enc m n) = n)

/-- R82, R84: on a valid word INC adds one second modulo 3600, `sec_wrap` says that the seconds were 59 and
`hour_ovf` that the word was 59:59; it shows its outputs on its wires and changes nothing else. -/
def Obligations.IncAddsOneSecond : Prop :=
  ∀ (p : PT16) (s : State), validPT p = true →
    let k := (60 * minutesOf p + secondsOf p + 1) % 3600
    exec (.inc p) s = .next { s with wires := { s.wires with
      inc := ⟨enc (k / 60) (k % 60), decide (secondsOf p = 59), decide (p = 0x5959#16)⟩ } }

/-- R83, R84 (the spec's own inference from R82): the ripple of decimal lanes gives INC's result and both its
carries. -/
def Obligations.LaneAdderIsInc : Prop :=
  ∀ p : PT16, validPT p = true →
    incLanes p = ((inc p).q, (inc p).secWrap, (inc p).hourOvf)

/-- R82: INC keeps validity, has no fixed point, and only 59:59 goes to 00:00. -/
def Obligations.IncKeepsValidityWithoutFixedPoint : Prop :=
  ∀ p : PT16, validPT p = true →
    validPT (inc p).q = true ∧ (inc p).q ≠ p ∧ ((inc p).q = 0x0000#16 ↔ p = 0x5959#16)

/-- R88 (b), (c): INC applied `k` times adds `k` seconds modulo 3600, and a valid word comes back exactly after the
multiples of 3600. -/
def Obligations.IncHasPeriod3600 : Prop :=
  ∀ (p : PT16) (k : Nat), validPT p = true →
    let t := (60 * minutesOf p + secondsOf p + k) % 3600
    (fun q => (inc q).q)^[k] p = enc (t / 60) (t % 60) ∧ ((fun q => (inc q).q)^[k] p = p ↔ 3600 ∣ k)

/-- R86: DEC succeeds exactly when no nibble exceeds 9, gives each byte's `tens*10+ones`, and shows its outputs on its
wires, changing nothing else; success with both fields zero means the zero word. -/
def Obligations.DecConvertsEachByte : Prop :=
  ∀ (p : PT16) (s : State), ∃ d : DecOut,
    exec (.dec p) s = .next { s with wires := { s.wires with dec := d } } ∧
    (d.ok = true ↔ ((p.extractLsb' 12 4).toNat ≤ 9 ∧ (p.extractLsb' 8 4).toNat ≤ 9 ∧
      (p.extractLsb' 4 4).toNat ≤ 9 ∧ (p.extractLsb' 0 4).toNat ≤ 9)) ∧
    (d.ok = true → d.m.toNat = (p.extractLsb' 12 4).toNat * 10 + (p.extractLsb' 8 4).toNat ∧
      d.s.toNat = (p.extractLsb' 4 4).toNat * 10 + (p.extractLsb' 0 4).toNat) ∧
    ((d.ok = true ∧ d.m = 0 ∧ d.s = 0) ↔ p = 0x0000#16)

/-- R87, R81, R88 (a): ENC reduces both operands modulo 60, is always valid, decodes to the reduced operands, and gives
a valid word back from its own decoding; it shows its output on its wire and changes nothing else. -/
def Obligations.EncDecodesToTheRemainders : Prop :=
  (∀ (m n : Nat) (s : State), ∃ q : PT16,
    exec (.enc m n) s = .next { s with wires := { s.wires with enc := q } } ∧ validPT q = true ∧
    q.extractLsb' 12 4 = BitVec.ofNat 4 (m % 60 / 10) ∧ q.extractLsb' 8 4 = BitVec.ofNat 4 (m % 60 % 10) ∧
    q.extractLsb' 4 4 = BitVec.ofNat 4 (n % 60 / 10) ∧ q.extractLsb' 0 4 = BitVec.ofNat 4 (n % 60 % 10) ∧
    dec q = ⟨true, BitVec.ofNat 7 (m % 60), BitVec.ofNat 7 (n % 60)⟩) ∧
  (∀ p : PT16, validPT p = true → enc (dec p).m.toNat (dec p).s.toNat = p)

/-! ### The edge detector -/

/-- R101: SAMPLE takes both lines into the sample registers and changes nothing else. -/
def Obligations.SampleRegistersTheLines : Prop :=
  ∀ (b : Bool) (w : SW10) (s : State), exec (.sample b w) s = .next { s with btnLvl := b, swLvl := w }

/-- R103, R105: the capture bit as the machine Idle, Pending; nothing else changes. -/
def Obligations.CaptureIsTheIdlePendingMachine : Prop :=
  ∀ (t a : Bool) (s : State), ∃ b : Bool,
    exec (.capture t a) s = .next { s with btnCap := b } ∧
    (s.btnCap = false → b = t) ∧ (s.btnCap = true → (b = false ↔ (a = true ∧ t = false)))

/-- R104, R102: an acknowledge clears the capture bit unless a transition of the selected direction arrives in the same
cycle, which is kept. -/
def Obligations.AckClearsUnlessATransitionArrives : Prop :=
  ∀ s : State, ∃ b : Bool, exec .ack s = .next { s with btnCap := b } ∧
    (b = true ↔ ((s.cfg.edgeSel = .any ∧ s.btnLvl ≠ s.inputs.btnRaw) ∨
      (s.cfg.edgeSel = .rise ∧ s.btnLvl = false ∧ s.inputs.btnRaw = true) ∨
      (s.cfg.edgeSel = .fall ∧ s.btnLvl = true ∧ s.inputs.btnRaw = false)))

/-- R113: the timer's pending bit; a timeout in the cycle of an acknowledge is kept. -/
def Obligations.TimeoutWinsOverItsAcknowledge : Prop :=
  ∀ (t a h : Bool) (s : State), ∃ b : Bool,
    exec (.tcapture t a h) s = .next { s with tickPending := b } ∧
    (b = true ↔ (t = true ∨ (s.tickPending = true ∧ a = false ∧ h = false)))

/-- R107, R108: in a dispatch cycle a captured edge is acknowledged whatever the level, and gives BUMP when the level
reads pressed and NOOP when it reads released; without an edge, or outside a dispatch cycle, the event is NOOP and
nothing is acknowledged. That it does so in level mode too is the model's choice (log entry 23). -/
def Obligations.EdgeEventAcknowledgesWhateverTheLevel : Prop :=
  ∀ s : State, ∃ (e : EV9) (a b : Bool),
    exec .evtEdge s = .next { s with btnCap := b, wires := { s.wires with ev := e, ackBtn := a } } ∧
    (a = true ↔ (s.inputs.dispatchEn = true ∧ s.halted = false ∧ s.btnCap = true)) ∧
    decode (.ev9 e) = .ok (if a = true ∧ s.btnLvl = true then .bump s.cfg.bumpAmount else .noop) ∧
    (a = false → b = s.btnCap) ∧ (a = true → b = s.trans)

/-- R110, R111, R67, and R68, R69, R73 at the positions of R62: the event of EVT_LEVEL at every legal layout of the switch
word is that of the first matching row: exit, then the field select, then the button; it never acknowledges, and outside a
dispatch cycle the event is NOOP. At the default positions the switch word is written out, and the derivation is the one
by which the decoder reads it. The wires are the model's copies (log entry 12). That it acts so in edge mode
too is the model's choice (log entry 23). -/
def Obligations.LevelEventFollowsTheSwitchWord : Prop :=
  (∀ s : State, s.cfg.layoutOk = true →
    let sel := s.swLvl.toNat / 2 ^ s.cfg.selLsb % 4
    let val := BitVec.ofNat 6 (s.swLvl.toNat / 2 ^ s.cfg.valLsb % 64)
    ∃ e : EV9, exec .evtLevel s = .next { s with wires := { s.wires with ev := e, ackBtn := false } } ∧
      decode (.ev9 e) = .ok
        (if s.inputs.dispatchEn = false ∨ s.halted = true then .noop
         else if s.swLvl.toNat / 2 ^ s.cfg.exitBit % 2 = 1 then .exit
         else if sel = 1 then .setSec val else if sel = 2 then .setMin val else if sel = 3 then .setHrs val
         else if s.btnLvl then .bump s.cfg.bumpAmount else .noop)) ∧
  ∀ (s : State) (sel : BitVec 2) (ex ign : Bool) (v : Payload),
    s.cfg.defaultLayout = true → s.swLvl = sel ++ BitVec.ofBool ex ++ BitVec.ofBool ign ++ v →
    ∃ e : EV9, exec .evtLevel s = .next { s with wires := { s.wires with ev := e, ackBtn := false } } ∧
      decode (.ev9 e) = .ok
        (if s.inputs.dispatchEn = false ∨ s.halted = true then .noop else if ex then .exit
         else if sel = 1 then .setSec v else if sel = 2 then .setMin v else if sel = 3 then .setHrs v
         else if s.btnLvl then .bump s.cfg.bumpAmount else .noop) ∧
      levelEvent s.cfg s.swLvl s.btnLvl = decodeSw10 s.swLvl s.btnLvl s.cfg.bumpAmount

/-- R114 with C7 (the spec's own inference): in edge mode, once the capture bit is clear and the line is steady, no
number of further cycles derives another event, dispatched or not. -/
def Obligations.SteadyLineGivesNoFurtherEvent : Prop :=
  ∀ (k : Nat) (s : State), s.cfg.inputMode = .edge → s.btnCap = false → k < s.trace.length →
    (∀ i ∈ s.trace.take (k + 1), i.rst = false ∧ i.btnRaw = s.btnLvl) →
    ∃ t : State, Sys2Proof.core.run (k + 1) s = .next t ∧ t.btnCap = false ∧ t.btnLvl = s.btnLvl ∧
      decode (.ev9 t.wires.ev) = .ok .noop

/-- R107, R114: the dispatch that finds the bit set, with the line steady, clears it, and bumps exactly when the level
reads pressed. -/
def Obligations.OneCapturedEdgeGivesAtMostOneBump : Prop :=
  ∀ s : State, s.cfg.inputMode = .edge → s.inputs.rst = false → s.inputs.dispatchEn = true →
    s.halted = false → s.btnCap = true → s.inputs.btnRaw = s.btnLvl →
    ∃ t, Machine.step s = .next t ∧ t.btnCap = false ∧
      decode (.ev9 t.wires.ev) = .ok (if s.btnLvl then .bump s.cfg.bumpAmount else .noop)

/-! ### The cycle -/

/-- R120, R26: one step of the machine is exec of STEP after the host's accesses of the cycle, and then the inputs of the
next cycle come up; the host's accesses change no register of the core before the edge. -/
def Obligations.StepIsTheCycleOfTheCore : Prop :=
  ∀ s : State, s.cfg.refusedPair = false →
    ∃ t u, exec .step s.hostPhase = .next t ∧ exec .step s = .next u ∧ t.core = u.core ∧
      Machine.step s = .next { t with trace := s.trace.tail, cycle := s.cycle + 1 }

/-- R120, R121, R134, R63: in a dispatch cycle with `rst = 0` the event bus carries the word, and the button's bit takes the
acknowledge, that exec of EVT_EDGE or of EVT_LEVEL drives, by `INPUT_MODE`; the word decodes to an instruction `i`; exec of
`i` gives `halted`; and when the tick is pending, the event did not halt the core and (`DISPATCH_MODE` is POLL or the
button's bit is clear), exec of TICK on that result gives time, hours and counter and the tick is acknowledged, else exec of
`i` gives them and the tick is not acknowledged by the core. The wires are the model's copies (log entry 12). -/
def Obligations.ACycleRunsTheDecodedEventThenTheTick : Prop :=
  ∀ s : State, s.cfg.refusedPair = false → s.inputs.rst = false → s.inputs.dispatchEn = true → s.halted = false →
    ∃ (i : Instr) (e u v t : State),
      exec (match s.cfg.inputMode with | .edge => .evtEdge | .level => .evtLevel) s = .next e ∧
      decode (.ev9 e.wires.ev) = .ok i ∧ exec i s = .next u ∧ exec .tick u = .next v ∧ Machine.step s = .next t ∧
      s.active = true ∧ s.event = ⟨e.wires.ev, e.wires.ackBtn⟩ ∧
      t.wires.ev = e.wires.ev ∧ t.wires.ackBtn = e.wires.ackBtn ∧ t.halted = u.halted ∧
      (t.btnCap = true ↔ (s.trans = true ∨ (s.btnCap = true ∧ e.wires.ackBtn = false ∧ s.hostAckBtn = false))) ∧
      (s.serveTick = true ↔ (s.tickPending = true ∧ u.halted = false ∧
        (s.cfg.dispatchMode = .poll ∨ s.btnCap = false))) ∧
      t.wires.ackTick = s.serveTick ∧
      (s.tickPending = true ∧ u.halted = false ∧ (s.cfg.dispatchMode = .poll ∨ s.btnCap = false) →
        t.packedTime = v.packedTime ∧ t.hours = v.hours ∧ t.subTickCount = v.subTickCount ∧
        t.tickPending = s.inputs.tmrTimeout) ∧
      (¬(s.tickPending = true ∧ u.halted = false ∧ (s.cfg.dispatchMode = .poll ∨ s.btnCap = false)) →
        t.packedTime = u.packedTime ∧ t.hours = u.hours ∧ t.subTickCount = u.subTickCount ∧
        (t.tickPending = true ↔ (s.inputs.tmrTimeout = true ∨ (s.tickPending = true ∧ s.hostAckTick = false))))

/-- R120, R101, R103, R113: in every cycle with `rst = 0`, halted or not, dispatch or not, the lines are sampled and both
pending bits follow their cells. -/
def Obligations.EveryCycleSamplesAndCaptures : Prop :=
  ∀ s : State, s.cfg.refusedPair = false → s.inputs.rst = false →
    ∃ t, exec .step s = .next t ∧ t.btnLvl = s.inputs.btnRaw ∧ t.swLvl = s.inputs.swRaw ∧
      (t.btnCap = true ↔ (s.trans = true ∨ (s.btnCap = true ∧ s.event.ackBtn = false ∧ s.hostAckBtn = false))) ∧
      (t.tickPending = true ↔ (s.inputs.tmrTimeout = true ∨
        (s.tickPending = true ∧ s.serveTick = false ∧ s.hostAckTick = false)))

/-- R120, R12, R107, R166: with `dispatch_en = 0` or `halted = 1` there is no event and no acknowledge, no tick is served,
and the four registers of the clock state hold. -/
def Obligations.InactiveCycleHoldsTheClockState : Prop :=
  ∀ s : State, s.cfg.refusedPair = false → s.inputs.rst = false →
    (s.inputs.dispatchEn = false ∨ s.halted = true) →
    decode (.ev9 s.event.ev) = .ok .noop ∧ s.event.ackBtn = false ∧ s.serveTick = false ∧
    ∃ t, Machine.step s = .next t ∧ t.packedTime = s.packedTime ∧ t.hours = s.hours ∧
      t.subTickCount = s.subTickCount ∧ t.halted = s.halted

/-- R121: in IRQ mode a dispatch with both bits pending serves the button, which it acknowledges: the tick stays pending
and nothing is counted or advanced. -/
def Obligations.InterruptDispatchServesTheButtonFirst : Prop :=
  ∀ s : State, s.cfg.dispatchMode = .irq → s.cfg.inputMode = .edge → s.inputs.rst = false →
    s.btnCap = true → s.tickPending = true → s.hostAckTick = false →
    ∃ t, Machine.step s = .next t ∧ t.tickPending = true ∧ t.subTickCount = s.subTickCount ∧ t.wires.refresh = false ∧
      (t.wires.ackBtn = true ↔ (s.inputs.dispatchEn = true ∧ s.halted = false))

/-- R121: with both sources pending, the line steady and no new timeout, two dispatches in IRQ mode serve both sources and
reach the core registers that one dispatch reaches in POLL mode. -/
def Obligations.BothDispatchModesReachTheSameState : Prop :=
  ∀ (s : State) (i : Inputs) (rest : List Inputs), s.cfg.dispatchMode = .irq → s.cfg.inputMode = .edge →
    s.halted = false → s.btnCap = true → s.tickPending = true → s.trace = i :: i :: rest →
    i.rst = false → i.dispatchEn = true → i.btnRaw = s.btnLvl → i.tmrTimeout = false →
    i.hostAckBtn = false → i.hostAckTick = false → i.host = none →
    ∃ t u : State, Sys2Proof.core.run 2 s = .next t ∧
      Sys2Proof.core.run 1 { s with cfg := { s.cfg with dispatchMode := .poll } } = .next u ∧ t.core = u.core ∧
      t.btnCap = false ∧ t.tickPending = false

/-- R7, R120, U8, D22, R150: the machine stops in the configuration (IRQ, LEVEL), where STEP is refused, and in no other;
every operation but STEP answers a next state from every state. -/
def Obligations.OnlyTheRefusedConfigurationStops : Prop :=
  (∀ (i : Instr) (s : State), i ≠ .step → ∃ t, exec i s = .next t) ∧
  ∀ s : State,
    (s.cfg.dispatchMode = .irq ∧ s.cfg.inputMode = .level → Machine.step s = .refused .irqWithLevel ∧
      exec .step s = .refused .irqWithLevel) ∧
    (¬(s.cfg.dispatchMode = .irq ∧ s.cfg.inputMode = .level) →
      (∃ t, Machine.step s = .next t) ∧ ∃ t, exec .step s = .next t)

/-! ### Reset -/

/-- R170, R34, R171: RESET puts every register of the core at its reset value whatever it held, and leaves parameters,
neighbours, results, inputs and codec wires; it drives the wires of a cycle without event, acknowledge or advance
(the wires are the model's own copies, log entry 12). -/
def Obligations.ResetRestoresEveryRegister : Prop :=
  ∀ s : State, ∃ t, exec .reset s = .next t ∧
    t = { s with packedTime := s.cfg.seedPacked, hours := s.cfg.seedHours, subTickCount := 0, halted := false,
                 tickPending := false, btnCap := false, btnLvl := false, swLvl := 0,
                 wires := { s.wires with ev := 0, ackBtn := false, ackTick := false, refresh := false } }

/-- R170: with `rst = 1` the cycle is RESET, whatever the other inputs are. -/
def Obligations.ResetHasPriorityOverEveryInput : Prop :=
  ∀ s : State, s.cfg.refusedPair = false → s.inputs.rst = true →
    exec .step s = exec .reset s ∧
    ∃ t, Machine.step s = .next t ∧ t.core = ⟨s.cfg.seedPacked, s.cfg.seedHours, 0, false, false, false, false, 0⟩

/-- R174 (the spec's own inference): a button held in the first cycle after reset is captured as a press, unless only
releases are captured. -/
def Obligations.ButtonHeldAtResetIsCaptured : Prop :=
  ∀ (c : Params) (i : Inputs) (rest : List Inputs), c.refusedPair = false → i.rst = false → i.btnRaw = true →
    ∃ t, Machine.step { State.resetWith c with trace := i :: rest } = .next t ∧ t.btnLvl = true ∧
      (t.btnCap = true ↔ c.edgeSel ≠ .fall)

/-! ### Events -/

/-- R123, R129: NOOP changes nothing; EXIT sets `halted` and changes nothing else. -/
def Obligations.NoopChangesNothingAndExitHalts : Prop :=
  ∀ s : State, exec .noop s = .next s ∧ exec .exit s = .next { s with halted := true }

/-- R124: EV9 kind 1 and the switch word `010-vvvvvv` select SET_SEC; it overwrites the seconds byte
with the two digits of `v % 60`; minutes, hours, counter and all else are unchanged. The state is not halted (an event is
applied only in a dispatch cycle, R122). -/
def Obligations.SetSecondsReplacesTheLowByte : Prop :=
  ∀ v : Payload, decode (.ev9 (1#3 ++ v)) = .ok (.setSec v) ∧
    (∀ (ign b : Bool) (n : Payload),
      decode (.sw10 (1#2 ++ 0#1 ++ BitVec.ofBool ign ++ v) b n) = .ok (.setSec v)) ∧
    ∀ s : State, s.halted = false → ∃ q : PT16,
      exec (.setSec v) s = .next { s with packedTime := q } ∧ q.extractLsb' 8 8 = s.packedTime.extractLsb' 8 8 ∧
      (q.extractLsb' 4 4).toNat = v.toNat % 60 / 10 ∧ (q.extractLsb' 0 4).toNat = v.toNat % 60 % 10 ∧
      (validPT s.packedTime = true → q = enc (minutesOf s.packedTime) v.toNat)

/-- R125: EV9 kind 2 and the switch word `100-vvvvvv` select SET_MIN; it overwrites the minutes byte
with the two digits of `v % 60`. -/
def Obligations.SetMinutesReplacesTheHighByte : Prop :=
  ∀ v : Payload, decode (.ev9 (2#3 ++ v)) = .ok (.setMin v) ∧
    (∀ (ign b : Bool) (n : Payload),
      decode (.sw10 (2#2 ++ 0#1 ++ BitVec.ofBool ign ++ v) b n) = .ok (.setMin v)) ∧
    ∀ s : State, s.halted = false → ∃ q : PT16,
      exec (.setMin v) s = .next { s with packedTime := q } ∧ q.extractLsb' 0 8 = s.packedTime.extractLsb' 0 8 ∧
      (q.extractLsb' 12 4).toNat = v.toNat % 60 / 10 ∧ (q.extractLsb' 8 4).toNat = v.toNat % 60 % 10 ∧
      (validPT s.packedTime = true → q = enc v.toNat (secondsOf s.packedTime))

/-- R126: EV9 kind 3 and the switch word `110-vvvvvv` select SET_HRS; it sets the hours to `v % 100`, which is the six-bit
value itself. -/
def Obligations.SetHoursWritesTheValueItself : Prop :=
  ∀ v : Payload, decode (.ev9 (3#3 ++ v)) = .ok (.setHrs v) ∧
    (∀ (ign b : Bool) (n : Payload),
      decode (.sw10 (3#2 ++ 0#1 ++ BitVec.ofBool ign ++ v) b n) = .ok (.setHrs v)) ∧
    ∀ s : State, s.halted = false → ∃ h : Hours,
      exec (.setHrs v) s = .next { s with hours := h } ∧ h.toNat = v.toNat % 100 ∧ h.toNat = v.toNat

/-- R127: BUMP adds `n` seconds to the decoded time, carries each 3600-second boundary into the hours modulo 100, and
leaves a word that does not decode alone. -/
def Obligations.BumpAddsSecondsAndCarriesHours : Prop :=
  ∀ (n : Payload) (s : State), s.halted = false →
    let tot := 60 * minutesOf s.packedTime + secondsOf s.packedTime + n.toNat
    ((dec s.packedTime).ok = true → ∃ (q : PT16) (h : Hours),
      exec (.bump n) s = .next { s with packedTime := q, hours := h } ∧ validPT q = true ∧
      60 * minutesOf q + secondsOf q = tot % 3600 ∧ h.toNat = (s.hours.toNat + tot / 3600) % 100) ∧
    ((dec s.packedTime).ok = false → exec (.bump n) s = .next s)

/-- R128 (the spec's own inference): on a valid time and hours of at most 99, BUMP by any natural `n` is `n` advances, each
with its hour check. -/
def Obligations.BumpIsIteratedAdvance : Prop :=
  ∀ (n : Nat) (c : Clock), validPT c.packedTime = true → c.hours.toNat ≤ 99 →
    (fun x : PT16 × Hours => ((advance x.1 x.2).packedTime, (advance x.1 x.2).hours))^[n] (c.packedTime, c.hours)
      = ((Clock.bump n c).packedTime, (Clock.bump n c).hours)

/-- R25: `halted` is 0 after a reset, is set by EXIT or by a cycle whose event is EXIT and by nothing else, and is cleared
by a reset only; while it is 1 no operation but a reset writes the clock state. -/
def Obligations.HaltedIsSetByExitAndClearedByReset : Prop :=
  ∀ (i : Instr) (s t : State), exec i s = .next t →
    (s.halted = true → i ≠ .reset → ¬(i = .step ∧ s.inputs.rst = true) →
      t.halted = true ∧ t.packedTime = s.packedTime ∧ t.hours = s.hours ∧ t.subTickCount = s.subTickCount) ∧
    (s.halted = false → t.halted = true →
      i = .exit ∨ (i = .step ∧ decode (.ev9 s.event.ev) = .ok .exit)) ∧
    (i = .exit ∨ (i = .step ∧ s.inputs.rst = false ∧ decode (.ev9 s.event.ev) = .ok .exit) → t.halted = true) ∧
    (i = .reset ∨ (i = .step ∧ s.inputs.rst = true) → t.halted = false)

/-- R129, R166: from a halted core, any number of cycles without reset keeps the clock state. -/
def Obligations.HaltIsForeverWithoutReset : Prop :=
  ∀ (k : Nat) (s : State), s.cfg.refusedPair = false → s.halted = true → k ≤ s.trace.length →
    (∀ i ∈ s.trace.take k, i.rst = false) →
    ∃ t : State, Sys2Proof.core.run k s = .next t ∧ t.halted = true ∧ t.packedTime = s.packedTime ∧ t.hours = s.hours ∧
      t.subTickCount = s.subTickCount

/-- R129, D21: when the event of a dispatch is EXIT, the tick pending in the same dispatch is not served: time and
counter hold, and the pending bit stays unless the host clears it. -/
def Obligations.ExitLeavesThePendingTickUnserved : Prop :=
  ∀ s : State, s.cfg.refusedPair = false → s.inputs.rst = false → s.inputs.dispatchEn = true → s.halted = false →
    decode (.ev9 s.event.ev) = .ok .exit → s.tickPending = true → s.hostAckTick = false →
    ∃ t, Machine.step s = .next t ∧ t.halted = true ∧ t.packedTime = s.packedTime ∧ t.hours = s.hours ∧
      t.subTickCount = s.subTickCount ∧ t.tickPending = true

/-! ### The periodic path -/

/-- R130, R131: a served tick counts one, or on the last tick of a second zeroes the counter and advances; it always
acknowledges, and a timeout of the same cycle is kept (log entry 9). The copies of the wires `ack_tick` and `refresh`, and
of INC's outputs for `packed_time`, advance or not, are the model's choice (log entries 12 and 22). -/
def Obligations.TickCountsOrAdvances : Prop :=
  ∀ s : State, s.halted = false → s.cfg.nTicksOk = true → ∃ t, exec .tick s = .next t ∧
    t = { s with packedTime := t.packedTime, hours := t.hours, subTickCount := t.subTickCount,
                 tickPending := s.inputs.tmrTimeout,
                 wires := { s.wires with ackTick := true, inc := inc s.packedTime,
                                         refresh := decide (s.cfg.nTicks ≤ s.subTickCount.toNat + 1) } } ∧
    (s.subTickCount.toNat + 1 < s.cfg.nTicks →
      t.packedTime = s.packedTime ∧ t.hours = s.hours ∧ t.subTickCount.toNat = s.subTickCount.toNat + 1) ∧
    (s.cfg.nTicks ≤ s.subTickCount.toNat + 1 → t.packedTime = (inc s.packedTime).q ∧ t.subTickCount = 0 ∧
      (validPT s.packedTime = true → t.hours.toNat =
        if s.packedTime = 0x5959#16 then (s.hours.toNat + 1) % 100 else s.hours.toNat))

/-- R131, R132, R138: ADVANCE adds one second to a valid time, zeroes the counter, raises `refresh`, and adds one hour
modulo 100 exactly when the time was 59:59. -/
def Obligations.AdvanceCarriesIntoTheHours : Prop :=
  ∀ s : State, s.halted = false → validPT s.packedTime = true → ∃ (q : PT16) (h : Hours),
    exec .advance s = .next { s with packedTime := q, hours := h, subTickCount := 0,
                                     wires := { s.wires with refresh := true, inc := inc s.packedTime } } ∧
    validPT q = true ∧
    60 * minutesOf q + secondsOf q = (60 * minutesOf s.packedTime + secondsOf s.packedTime + 1) % 3600 ∧
    (s.packedTime = 0x5959#16 → h.toNat = (s.hours.toNat + 1) % 100) ∧ (s.packedTime ≠ 0x5959#16 → h = s.hours)

/-- R132: HOUR_OVF increments the hours modulo 100 when the carry is 1, and 99 goes to 0. -/
def Obligations.HourCarryWrapsAt100 : Prop :=
  ∀ (ovf : Bool) (s : State), s.halted = false → ∃ h : Hours,
    exec (.hourOvf ovf) s = .next { s with hours := h } ∧
    (ovf = true → h.toNat = (s.hours.toNat + 1) % 100 ∧ (s.hours = 99 → h = 0)) ∧ (ovf = false → h = s.hours)

/-- R135, R184: `refresh` is 1 in exactly the cycles that perform an advance, and the model's copy of the wire after the
cycle (log entry 12) shows it. -/
def Obligations.RefreshMarksExactlyTheAdvances : Prop :=
  ∀ s t : State, exec .step s = .next t →
    (t.wires.refresh = true ↔
      (s.inputs.rst = false ∧ s.serveTick = true ∧ s.cfg.nTicks ≤ s.subTickCount.toNat + 1)) ∧
    t.wires.refresh = s.refresh

/-- R136, R30: the interrupt request. -/
def Obligations.InterruptRequestOutput : Prop :=
  ∀ s : State, s.irq = true ↔
    (s.cfg.dispatchMode = .irq ∧ (s.btnCap = true ∨ s.tickPending = true) ∧ s.halted = false)

/-- R179, R132: a zero time that no advance of the cycle produced does not increment the hours: below the threshold a
tick leaves them, and the advance from 00:00 gives 00:01 with the same hours. -/
def Obligations.ZeroTimeDoesNotFireTheHourCarry : Prop :=
  ∀ s : State, s.halted = false → s.packedTime = 0x0000#16 →
    ∃ t, exec .tick s = .next t ∧ t.hours = s.hours ∧
      t.packedTime = if s.subTickCount.toNat + 1 < s.cfg.nTicks then 0x0000#16 else 0x0001#16

/-! ### Invariants and whole-machine rules -/

/-- R24, R137 (the spec's own inference): every cycle keeps `ValidPT(packed_time)`, `hours ≤ 99` and
`sub_tick_count < N_TICKS`, under a legal configuration, which it keeps too. -/
def Obligations.EveryCycleKeepsTheClockInvariant : Prop :=
  ∀ s t : State, s.Inv → Machine.step s = .next t → t.Inv

/-- R24, R34: after reset the invariant holds for every legal choice of the parameters, seeds among them; the one state
`State.reset` uses the model's own choice of parameters (log entries 2 and 3). -/
def Obligations.ResetStateMeetsTheInvariant : Prop :=
  (∀ c : Params, c.legal = true → (State.resetWith c).Inv) ∧ State.reset.Inv

/-- R9, R137, R150: from a state that meets the invariant the machine runs for ever, and meets it after every number of
cycles, whatever the inputs are. -/
def Obligations.GoodStatesRunForeverAndStayGood : Prop := ∀ s : State, s.Inv → s.SafeRun

/-- R138, R132, R127, R126: in a cycle without reset the hours change only by a SET_HRS event, by a BUMP that crosses an
hour boundary, or by the advance from 59:59. -/
def Obligations.OnlyThreeThingsChangeTheHours : Prop :=
  ∀ s t : State, s.Inv → s.inputs.rst = false → Machine.step s = .next t → t.hours ≠ s.hours →
    (∃ v, decode (.ev9 s.event.ev) = .ok (.setHrs v)) ∨
    (∃ n, decode (.ev9 s.event.ev) = .ok (.bump n) ∧
      3600 ≤ 60 * minutesOf s.packedTime + secondsOf s.packedTime + n.toNat) ∨
    (s.refresh = true ∧ s.phase1.packedTime = 0x5959#16)

/-- R23, R122, D19: the counter is written by TICK, ADVANCE, a cycle that serves a tick, and reset, and by nothing else;
no input event touches it. -/
def Obligations.NoEventTouchesTheTickCounter : Prop :=
  ∀ (i : Instr) (s t : State), exec i s = .next t → t.subTickCount ≠ s.subTickCount →
    i = .tick ∨ i = .advance ∨ i = .reset ∨ (i = .step ∧ (s.inputs.rst = true ∨ s.serveTick = true))

/-- R68: the parameters are fixed at construction: no operation and no cycle changes them. -/
def Obligations.ParametersAreFixed : Prop :=
  (∀ (i : Instr) (s t : State), exec i s = .next t → t.cfg = s.cfg) ∧
  (∀ s t : State, Machine.step s = .next t → t.cfg = s.cfg)

/-- R193, R176, R47: whatever a host and a consumer do in a cycle (reads, writes, acknowledges, in any number of ways),
the clock state at the end of that cycle is the same. (An acknowledge can take an event or a tick from a later cycle,
R175.) -/
def Obligations.HostCannotWriteTheClockStateWithinTheCycle : Prop :=
  ∀ (s : State) (i j : Inputs) (rest : List Inputs) (t u : State),
    j = { i with hostAckBtn := j.hostAckBtn, hostAckTick := j.hostAckTick, host := j.host, rdTime := j.rdTime } →
    Machine.step { s with trace := i :: rest } = .next t → Machine.step { s with trace := j :: rest } = .next u →
    t.packedTime = u.packedTime ∧ t.hours = u.hours ∧ t.subTickCount = u.subTickCount ∧ t.halted = u.halted

/-- R30, R36, D23, R148: the registers of the core after a cycle depend on its registers, its parameters and the inputs
alone: not on the neighbours, on results read, on what wires carried before, nor on `FEATURE_MODE`. -/
def Obligations.OnlyRegistersParametersAndInputsMatter : Prop :=
  ∀ (s t u : State) (e : Neighbours) (w : Wires) (d : BusWord) (r : TimeRead) (f : FeatureMode),
    Machine.step s = .next t →
    Machine.step { s with ext := e, wires := w, hostRead := d, timeRead := r, cfg := { s.cfg with featureMode := f } }
      = .next u →
    t.core = u.core ∧ t.trace = u.trace ∧ t.cycle = u.cycle

/-- R178, R113 (R178 is the spec's own inference): a timeout leaves the bit set, whether or not the pending tick is served
in its cycle; on a tick that is already pending, in a cycle that is no dispatch cycle (halted or without `dispatch_en`), it
changes nothing of the core but the samples and the capture bit, so it is not counted. -/
def Obligations.TimeoutsOutsideADispatchMerge : Prop :=
  ∀ s : State, s.cfg.refusedPair = false → s.inputs.rst = false → s.inputs.tmrTimeout = true →
    ∃ t, Machine.step s = .next t ∧ t.tickPending = true ∧
      (s.tickPending = true → (s.inputs.dispatchEn = false ∨ s.halted = true) →
        t.core = { s.core with btnLvl := s.inputs.btnRaw, swLvl := s.inputs.swRaw, btnCap := t.btnCap })

/-! ### The host -/

/-- R142, R143, R144, R146, R45: a read returns the register in its used bits and changes nothing, in particular it clears
no pending bit. The word and where it stands are the model's choice (log entries 6 and 12). -/
def Obligations.ReadsReturnTheRegisterAndClearNothing : Prop :=
  ∀ s : State,
    (∃ d : BusWord, exec .rdSw s = .next { s with hostRead := d } ∧ d.extractLsb' 0 10 = s.swLvl) ∧
    (∃ d : BusWord, exec .rdBtn s = .next { s with hostRead := d } ∧ d.getLsbD 0 = s.btnLvl) ∧
    (∃ d : BusWord, exec .rdEdge s = .next { s with hostRead := d } ∧ d.getLsbD 0 = s.btnCap) ∧
    (∃ d : BusWord, exec .rdTstat s = .next { s with hostRead := d } ∧ d.getLsbD 0 = s.tickPending)

/-- R145, R147, R51: writing a 1 to bit 0 clears the pending bit unless it is set again in the same cycle; writing a 0, and
every other data bit, does nothing. That it acts in every mode is the model's choice (log entry 24), and so is the cycle
it acts in (log entry 9). -/
def Obligations.HostAcknowledgesByWritingOne : Prop :=
  ∀ (d : BusWord) (s : State),
    (∃ b : Bool, exec (.ackEdge d) s = .next { s with btnCap := b } ∧
      (d.getLsbD 0 = false → b = s.btnCap) ∧ (d.getLsbD 0 = true → b = s.trans)) ∧
    (∃ b : Bool, exec (.ackTstat d) s = .next { s with tickPending := b } ∧
      (d.getLsbD 0 = false → b = s.tickPending) ∧ (d.getLsbD 0 = true → b = s.inputs.tmrTimeout))

/-- R148, R190, R191, R43: writes to the timer and the LEDs change nothing of the core; the neighbour's register takes the
data (the neighbours' registers are the model's own, log entry 7), and the two halves make the 32-bit period. -/
def Obligations.TimerAndLedWritesReachTheNeighboursOnly : Prop :=
  ∀ (f : TimerControl) (d : BitVec 16) (l : BitVec 10) (s : State),
    exec (.wrTctrl f) s = .next { s with ext := { s.ext with timerControl := f } } ∧
    exec (.wrLed l) s = .next { s with ext := { s.ext with led := l } } ∧
    (∃ e, exec (.wrTper .low d) s = .next { s with ext := e } ∧ e.period.extractLsb' 0 16 = d ∧
      e.period.extractLsb' 16 16 = s.ext.period.extractLsb' 16 16 ∧ e = { s.ext with periodLow := d }) ∧
    (∃ e, exec (.wrTper .high d) s = .next { s with ext := e } ∧ e.period.extractLsb' 16 16 = d ∧
      e.period.extractLsb' 0 16 = s.ext.period.extractLsb' 0 16 ∧ e = { s.ext with periodHigh := d })

/-- R149, R152: a write to Display `k` changes that display alone, and nothing when `k` is outside 0 to 5 (the display
registers are the model's own, log entry 7). -/
def Obligations.DisplayWriteIgnoresAnIndexBeyondFive : Prop :=
  ∀ (k : Nat) (p : BitVec 8) (s : State), ∃ v : Vector (BitVec 8) 6,
    exec (.wrDisp k p) s = .next { s with ext := { s.ext with disp := v } } ∧
    (∀ j (h : j < 6), v[j] = if j = k then p else s.ext.disp[j])

/-- R192, R32: RD_TIME returns the ports of the cycle, which the model keeps in a field of its own (log entry 12), and
changes nothing else. On a valid time (R86, R88) `bcd_err` is 0 and the two fields encode back to the time. -/
def Obligations.TimeReadReturnsThePorts : Prop :=
  ∀ s : State, ∃ r : TimeRead, exec .rdTime s = .next { s with timeRead := r } ∧
    r.hours = s.hours ∧ r.packedTime = s.packedTime ∧ r.subTickCount = s.subTickCount ∧ r.halted = s.halted ∧
    r.decMin = s.decMin ∧ r.decSec = s.decSec ∧ r.bcdErr = s.bcdErr ∧
    (validPT s.packedTime = true → r.bcdErr = false ∧
      enc r.decMin.toNat r.decSec.toNat = s.packedTime)

/-- R65, R41, R145: the host's access of a cycle does what exec of its decoded operation does to the neighbours and to the
word the host reads; one the table does not list leaves the core as a cycle without access does. -/
def Obligations.ACycleRunsTheHostsDecodedAccess : Prop :=
  ∀ (s : State) (i : Inputs) (rest : List Inputs) (a : RegAccess), s.cfg.refusedPair = false →
    ∃ t v, Machine.step { s with trace := { i with host := some a } :: rest } = .next t ∧
      Machine.step { s with trace := { i with host := none } :: rest } = .next v ∧
      (∀ o u, decode (.reg a) = .ok o → exec o s = .next u → t.ext = u.ext ∧ t.hostRead = u.hostRead) ∧
      (∀ r, decode (.reg a) = .error r → t.core = v.core ∧ t.ext = s.ext)

/-- R145, R147, R103, R104, R113: outside a dispatch, the host's write of a 1 to the edge-capture register, or to the timer
status register, or a 1 on the port of that acknowledge, clears the bit at the end of the cycle unless a transition, or a
timeout, sets it in the same cycle; a write of a 0 does not, and neither write acknowledges the other bit. That the ports
are live in every mode is the model's choice (log entry 24). -/
def Obligations.HostAcknowledgeActsAtTheEdge : Prop :=
  ∀ (s : State) (i : Inputs) (rest : List Inputs) (d : BusWord), s.cfg.refusedPair = false → i.rst = false →
    i.dispatchEn = false →
    (∃ t, Machine.step { s with trace := { i with host := some (.write (.buttonEdge d)) } :: rest } = .next t ∧
      t.btnCap = (recogniseEdge s.cfg.edgeSel s.btnLvl i.btnRaw || (s.btnCap && !(i.hostAckBtn || d.getLsbD 0))) ∧
      t.tickPending = (i.tmrTimeout || (s.tickPending && !i.hostAckTick))) ∧
    (∃ t, Machine.step { s with trace := { i with host := some (.write (.timerStatus d)) } :: rest } = .next t ∧
      t.tickPending = (i.tmrTimeout || (s.tickPending && !(i.hostAckTick || d.getLsbD 0))) ∧
      t.btnCap = (recogniseEdge s.cfg.edgeSel s.btnLvl i.btnRaw || (s.btnCap && !i.hostAckBtn)))

/-- R153, R86: a digit above 9 is rejected and the prior content stays, the two patterns the spec gives are shown, `render`
shows the tens and ones of quantities of at most 99 whatever was shown before, a state that meets the invariant shows all
six digits of its time, and a time that does not decode leaves what was shown. -/
def Obligations.RenderShowsTheDigitsAndRejectsThoseAboveNine : Prop :=
  (∀ (prior : BitVec 8) (d : Nat), (9 < d → renderDigit prior d = prior) ∧
    renderDigit prior 0 = 0xC0#8 ∧ renderDigit prior 9 = 0x90#8) ∧
  (∀ (prior : DigitPatterns) (h m s : Nat), h ≤ 99 → m ≤ 99 → s ≤ 99 →
    render prior h m s = ⟨segmentPattern (h / 10), segmentPattern (h % 10), segmentPattern (m / 10),
      segmentPattern (m % 10), segmentPattern (s / 10), segmentPattern (s % 10)⟩) ∧
  (∀ (s : State) (prior : DigitPatterns), s.Inv → s.rendered prior =
    ⟨segmentPattern (s.hours.toNat / 10), segmentPattern (s.hours.toNat % 10),
      segmentPattern (s.packedTime.extractLsb' 12 4).toNat, segmentPattern (s.packedTime.extractLsb' 8 4).toNat,
      segmentPattern (s.packedTime.extractLsb' 4 4).toNat, segmentPattern (s.packedTime.extractLsb' 0 4).toNat⟩) ∧
  (∀ (s : State) (prior : DigitPatterns), (dec s.packedTime).ok = false → s.rendered prior = prior)
end

