-- ==== Sys2Proof/Laws/Codec.lean ====
section
/-! SUPPORT. What each codec operation can do, said once: the digits of a packed word, `BCD2`, ENC, INC and DEC. -/

namespace Sys2Proof.Machine

/-! ### Digits of a packed word (R61) -/

/-- Appending is adding the high part, shifted (a library fact in arithmetic form). -/
theorem toNat_append_add {n m : Nat} (x : BitVec n) (y : BitVec m) :
    (x ++ y).toNat = x.toNat * 2 ^ m + y.toNat := by
  rw [BitVec.toNat_append, ← Nat.shiftLeft_add_eq_or_of_lt y.isLt, Nat.shiftLeft_eq]

/-- A slice in arithmetic form. -/
theorem toNat_slice {n : Nat} (x : BitVec n) (lo len : Nat) :
    (x.extractLsb' lo len).toNat = x.toNat / 2 ^ lo % 2 ^ len := by
  rw [BitVec.extractLsb'_toNat, Nat.shiftRight_eq_div_pow]

/-- The number four packed digits are. -/
theorem toNat_packDigits (a b c d : BitVec 4) :
    (packDigits a b c d).toNat = ((a.toNat * 16 + b.toNat) * 16 + c.toNat) * 16 + d.toNat := by
  have h : (packDigits a b c d).toNat = ((a ++ b ++ c ++ d : BitVec (4 + 4 + 4 + 4))).toNat := rfl
  rw [h, toNat_append_add, toNat_append_add, toNat_append_add]
  norm_num

@[simp] theorem minTens_packDigits (a b c d : BitVec 4) : minTens (packDigits a b c d) = a := by
  apply BitVec.eq_of_toNat_eq
  rw [minTens, toNat_slice, toNat_packDigits]
  omega

@[simp] theorem minOnes_packDigits (a b c d : BitVec 4) : minOnes (packDigits a b c d) = b := by
  apply BitVec.eq_of_toNat_eq
  rw [minOnes, toNat_slice, toNat_packDigits]
  omega

@[simp] theorem secTens_packDigits (a b c d : BitVec 4) : secTens (packDigits a b c d) = c := by
  apply BitVec.eq_of_toNat_eq
  rw [secTens, toNat_slice, toNat_packDigits]
  omega

@[simp] theorem secOnes_packDigits (a b c d : BitVec 4) : secOnes (packDigits a b c d) = d := by
  apply BitVec.eq_of_toNat_eq
  rw [secOnes, toNat_slice, toNat_packDigits]
  omega

/-- A packed word is its four digits. -/
theorem packDigits_digits (p : PT16) : packDigits (minTens p) (minOnes p) (secTens p) (secOnes p) = p := by
  apply BitVec.eq_of_toNat_eq
  rw [toNat_packDigits, minTens, minOnes, secTens, secOnes, toNat_slice, toNat_slice, toNat_slice, toNat_slice]
  omega

/-- Packed words with the same four digits are equal. -/
theorem eq_of_digits {p q : PT16} (h1 : minTens p = minTens q) (h2 : minOnes p = minOnes q)
    (h3 : secTens p = secTens q) (h4 : secOnes p = secOnes q) : p = q := by
  rw [← packDigits_digits p, ← packDigits_digits q, h1, h2, h3, h4]

/-- Four digits determine their packed word and are determined by it. -/
theorem packDigits_inj {a b c d a' b' c' d' : BitVec 4} :
    packDigits a b c d = packDigits a' b' c' d' ↔ a = a' ∧ b = b' ∧ c = c' ∧ d = d' := by
  constructor
  · intro h
    have h1 := congrArg minTens h
    have h2 := congrArg minOnes h
    have h3 := congrArg secTens h
    have h4 := congrArg secOnes h
    simp at h1 h2 h3 h4
    exact ⟨h1, h2, h3, h4⟩
  · rintro ⟨rfl, rfl, rfl, rfl⟩; rfl

/-- The number two bytes put together are. -/
theorem toNat_bytes (x y : BitVec 8) : (x ++ y : BitVec (8 + 8)).toNat = x.toNat * 256 + y.toNat :=
  toNat_append_add x y

/-- The bytes of a packed word, put together again. -/
theorem minByte_append_secByte (p : PT16) : minByte p ++ secByte p = p := by
  apply BitVec.eq_of_toNat_eq
  have h := toNat_bytes (minByte p) (secByte p)
  have e : (minByte p).toNat = p.toNat / 2 ^ 8 % 2 ^ 8 := toNat_slice p 8 8
  have f : (secByte p).toNat = p.toNat / 2 ^ 0 % 2 ^ 8 := toNat_slice p 0 8
  have g := p.isLt
  refine h.trans ?_
  omega

/-- The digits of two bytes put together. -/
theorem digits_append (x y : BitVec 8) :
    minTens (x ++ y) = x.extractLsb' 4 4 ∧ minOnes (x ++ y) = x.extractLsb' 0 4 ∧
      secTens (x ++ y) = y.extractLsb' 4 4 ∧ secOnes (x ++ y) = y.extractLsb' 0 4 := by
  have h := toNat_bytes x y
  have g := y.isLt
  refine ⟨?_, ?_, ?_, ?_⟩ <;> apply BitVec.eq_of_toNat_eq <;>
    simp only [minTens, minOnes, secTens, secOnes, toNat_slice] <;> omega

/-- `ValidPT` says the bound of each digit (R80). -/
theorem validPT_iff (p : PT16) : validPT p = true ↔
    (minTens p).toNat ≤ 5 ∧ (minOnes p).toNat ≤ 9 ∧ (secTens p).toNat ≤ 5 ∧ (secOnes p).toNat ≤ 9 := by
  simp [validPT, and_assoc]

/-- A valid word has decimal digits. -/
theorem digitsOk_of_validPT {p : PT16} (h : validPT p = true) : digitsOk p = true := by
  rw [validPT_iff] at h
  simp only [digitsOk, Bool.and_eq_true, decide_eq_true_eq]
  omega

/-! ### BCD2 and ENC (R81, R87) -/

/-- A four-bit digit keeps a value below 16. -/
theorem toNat_digit {v : Nat} (h : v < 16) : (BitVec.ofNat 4 v).toNat = v := by
  simp [Nat.mod_eq_of_lt h]

/-- The number `BCD2` is. -/
theorem toNat_bcd2 (v : Nat) : (bcd2 v).toNat = v / 10 % 16 * 16 + v % 10 := by
  have h := toNat_append_add (BitVec.ofNat 4 (v / 10)) (BitVec.ofNat 4 (v % 10))
  refine h.trans ?_
  rw [toNat_digit (v := v % 10) (by omega), BitVec.toNat_ofNat]
  norm_num

/-- The tens digit of `BCD2`. -/
theorem bcd2_tens (v : Nat) : (bcd2 v).extractLsb' 4 4 = BitVec.ofNat 4 (v / 10) := by
  apply BitVec.eq_of_toNat_eq
  rw [toNat_slice, toNat_bcd2, BitVec.toNat_ofNat]
  omega

/-- The ones digit of `BCD2`. -/
theorem bcd2_ones (v : Nat) : (bcd2 v).extractLsb' 0 4 = BitVec.ofNat 4 (v % 10) := by
  apply BitVec.eq_of_toNat_eq
  rw [toNat_slice, toNat_bcd2, BitVec.toNat_ofNat]
  omega

/-- ENC as four digits. -/
theorem enc_eq_packDigits (m n : Nat) :
    enc m n = packDigits (BitVec.ofNat 4 (m % 60 / 10)) (BitVec.ofNat 4 (m % 60 % 10))
      (BitVec.ofNat 4 (n % 60 / 10)) (BitVec.ofNat 4 (n % 60 % 10)) := by
  obtain ⟨h1, h2, h3, h4⟩ := digits_append (bcd2 (m % 60)) (bcd2 (n % 60))
  apply eq_of_digits <;> simp only [minTens_packDigits, minOnes_packDigits, secTens_packDigits, secOnes_packDigits]
  · exact h1.trans (bcd2_tens _)
  · exact h2.trans (bcd2_ones _)
  · exact h3.trans (bcd2_tens _)
  · exact h4.trans (bcd2_ones _)

/-- What `minutesOf` reads from four digits. -/
theorem minutesOf_packDigits (a b c d : BitVec 4) : minutesOf (packDigits a b c d) = a.toNat * 10 + b.toNat := by
  simp [minutesOf]

/-- What `secondsOf` reads from four digits. -/
theorem secondsOf_packDigits (a b c d : BitVec 4) : secondsOf (packDigits a b c d) = c.toNat * 10 + d.toNat := by
  simp [secondsOf]

/-- The minutes of ENC are the remainder. -/
theorem minutesOf_enc (m n : Nat) : minutesOf (enc m n) = m % 60 := by
  rw [enc_eq_packDigits, minutesOf_packDigits, toNat_digit (by omega), toNat_digit (by omega)]
  omega

/-- The seconds of ENC are the remainder. -/
theorem secondsOf_enc (m n : Nat) : secondsOf (enc m n) = n % 60 := by
  rw [enc_eq_packDigits, secondsOf_packDigits, toNat_digit (by omega), toNat_digit (by omega)]
  omega

/-- ENC is always valid. -/
theorem validPT_enc (m n : Nat) : validPT (enc m n) = true := by
  rw [validPT_iff, enc_eq_packDigits]
  simp only [minTens_packDigits, minOnes_packDigits, secTens_packDigits, secOnes_packDigits]
  rw [toNat_digit (by omega), toNat_digit (by omega), toNat_digit (by omega), toNat_digit (by omega)]
  omega

/-- ENC of the decoded fields of a valid word is the word. -/
theorem enc_minutesOf_secondsOf {p : PT16} (h : validPT p = true) : enc (minutesOf p) (secondsOf p) = p := by
  rw [validPT_iff] at h
  rw [enc_eq_packDigits, ← packDigits_digits p, packDigits_inj, minutesOf_packDigits, secondsOf_packDigits]
  refine ⟨?_, ?_, ?_, ?_⟩ <;> apply BitVec.eq_of_toNat_eq <;> rw [toNat_digit (by omega)] <;> omega

/-- The decoded fields of a valid word lie below 60. -/
theorem fields_lt {p : PT16} (h : validPT p = true) : minutesOf p < 60 ∧ secondsOf p < 60 := by
  rw [validPT_iff] at h
  simp only [minutesOf, secondsOf]
  omega

/-! ### DEC (R86) -/

/-- DEC of a word with decimal digits. -/
theorem dec_of_digitsOk {p : PT16} (h : digitsOk p = true) :
    dec p = ⟨true, BitVec.ofNat 7 (minutesOf p), BitVec.ofNat 7 (secondsOf p)⟩ := by
  simp [dec, h]

/-- DEC of a word with a nibble above 9 fails; its fields are free. -/
theorem dec_of_not_digitsOk {p : PT16} (h : digitsOk p = false) : (dec p).ok = false := by
  simp [dec, h]

/-- The output `ok` of DEC. -/
theorem dec_ok (p : PT16) : (dec p).ok = digitsOk p := by
  unfold dec; split <;> simp_all

/-- The fields of a successful DEC fit their seven bits. -/
theorem dec_toNat {p : PT16} (h : digitsOk p = true) :
    (dec p).m.toNat = minutesOf p ∧ (dec p).s.toNat = secondsOf p := by
  rw [dec_of_digitsOk h]
  simp only [digitsOk, Bool.and_eq_true, decide_eq_true_eq] at h
  simp only [minutesOf, secondsOf, BitVec.toNat_ofNat]
  omega

/-! ### INC (R82 to R85) -/

/-- INC of a valid word. -/
theorem inc_of_validPT {p : PT16} (h : validPT p = true) :
    inc p = ⟨incDigits p, secTens p == 5 && secOnes p == 9, incDigits p == 0⟩ := by
  simp [inc, h]

/-- INC of a word outside its domain is the free function. -/
theorem inc_of_not_validPT {p : PT16} (h : validPT p = false) : inc p = Config.incOutside p := by
  simp [inc, h]

/-- The zero word is four zero digits. -/
theorem packDigits_zero : packDigits 0 0 0 0 = 0 := rfl

/-- The sum of a digit below 15 and one does not wrap. -/
theorem toNat_digit_add_one {a : BitVec 4} (h : a.toNat ≤ 14) : (a + 1).toNat = a.toNat + 1 := by
  rw [BitVec.toNat_add]; simp; omega

/-- The cases of INC on a valid word, by the digit that takes the carry (R82): the changed digits, each still decimal. -/
theorem incDigits_cases (p : PT16) :
    (secOnes p ≠ 9 ∧ incDigits p = packDigits (minTens p) (minOnes p) (secTens p) (secOnes p + 1)) ∨
    (secOnes p = 9 ∧ secTens p ≠ 5 ∧ incDigits p = packDigits (minTens p) (minOnes p) (secTens p + 1) 0) ∨
    (secOnes p = 9 ∧ secTens p = 5 ∧ minOnes p ≠ 9 ∧ incDigits p = packDigits (minTens p) (minOnes p + 1) 0 0) ∨
    (secOnes p = 9 ∧ secTens p = 5 ∧ minOnes p = 9 ∧ minTens p ≠ 5 ∧
      incDigits p = packDigits (minTens p + 1) 0 0 0) ∨
    (secOnes p = 9 ∧ secTens p = 5 ∧ minOnes p = 9 ∧ minTens p = 5 ∧ incDigits p = 0) := by
  simp only [incDigits]
  split
  · exact .inl ⟨‹_›, rfl⟩
  rename_i h1
  split
  · exact .inr (.inl ⟨not_not.mp h1, ‹_›, rfl⟩)
  rename_i h2
  split
  · exact .inr (.inr (.inl ⟨not_not.mp h1, not_not.mp h2, ‹_›, rfl⟩))
  rename_i h3
  split
  · exact .inr (.inr (.inr (.inl ⟨not_not.mp h1, not_not.mp h2, not_not.mp h3, ‹_›, rfl⟩)))
  rename_i h4
  exact .inr (.inr (.inr (.inr ⟨not_not.mp h1, not_not.mp h2, not_not.mp h3, not_not.mp h4, packDigits_zero⟩)))

/-- A digit other than `k` has another value. -/
theorem toNat_ne_of_ne {a : BitVec 4} {k : Nat} (hk : k < 16) (h : a ≠ BitVec.ofNat 4 k) : a.toNat ≠ k := by
  intro e
  apply h
  apply BitVec.eq_of_toNat_eq
  rw [toNat_digit hk, e]

/-- The values of the digits that INC compares with and writes. -/
theorem digit_values : (0 : BitVec 4).toNat = 0 ∧ (5 : BitVec 4).toNat = 5 ∧ (9 : BitVec 4).toNat = 9 := by decide

/-- INC adds one to the decoded seconds of a valid word, modulo an hour, and the result is valid. -/
theorem incDigits_spec {p : PT16} (h : validPT p = true) :
    validPT (incDigits p) = true ∧
      60 * minutesOf (incDigits p) + secondsOf (incDigits p) = (60 * minutesOf p + secondsOf p + 1) % 3600 := by
  rw [validPT_iff] at h
  obtain ⟨h1, h2, h3, h4⟩ := h
  obtain ⟨z0, z5, z9⟩ := digit_values
  have e : minutesOf p = (minTens p).toNat * 10 + (minOnes p).toNat := rfl
  have f : secondsOf p = (secTens p).toNat * 10 + (secOnes p).toNat := rfl
  rcases incDigits_cases p with ⟨a, q⟩ | ⟨a, b, q⟩ | ⟨a, b, c, q⟩ | ⟨a, b, c, d, q⟩ | ⟨a, b, c, d, q⟩ <;> rw [q]
  · have a' := toNat_ne_of_ne (k := 9) (by omega) a
    rw [validPT_iff, minutesOf_packDigits, secondsOf_packDigits]
    simp only [minTens_packDigits, minOnes_packDigits, secTens_packDigits, secOnes_packDigits]
    rw [toNat_digit_add_one (by omega)]
    omega
  · have b' := toNat_ne_of_ne (k := 5) (by omega) b
    rw [validPT_iff, minutesOf_packDigits, secondsOf_packDigits]
    simp only [minTens_packDigits, minOnes_packDigits, secTens_packDigits, secOnes_packDigits]
    rw [toNat_digit_add_one (by omega)]
    rw [a] at f h4
    omega
  · have c' := toNat_ne_of_ne (k := 9) (by omega) c
    rw [validPT_iff, minutesOf_packDigits, secondsOf_packDigits]
    simp only [minTens_packDigits, minOnes_packDigits, secTens_packDigits, secOnes_packDigits]
    rw [toNat_digit_add_one (by omega)]
    rw [a, b] at f
    omega
  · have d' := toNat_ne_of_ne (k := 5) (by omega) d
    rw [validPT_iff, minutesOf_packDigits, secondsOf_packDigits]
    simp only [minTens_packDigits, minOnes_packDigits, secTens_packDigits, secOnes_packDigits]
    rw [toNat_digit_add_one (by omega)]
    rw [a, b] at f
    rw [c] at e
    omega
  · rw [← packDigits_zero, validPT_iff, minutesOf_packDigits, secondsOf_packDigits]
    simp only [minTens_packDigits, minOnes_packDigits, secTens_packDigits, secOnes_packDigits]
    rw [a, b] at f
    rw [c, d] at e
    omega

/-- Valid words with the same decoded time are equal. -/
theorem eq_of_time {p q : PT16} (hp : validPT p = true) (hq : validPT q = true)
    (h : 60 * minutesOf p + secondsOf p = 60 * minutesOf q + secondsOf q) : p = q := by
  have a := fields_lt hp
  have b := fields_lt hq
  rw [← enc_minutesOf_secondsOf hp, ← enc_minutesOf_secondsOf hq]
  congr 1 <;> omega

end Sys2Proof.Machine
end

