-- ==== Sys2Proof/Laws/Events.lean ====
section
/-! SUPPORT. What the cells, the event words and the event derivation can do, said once. -/

namespace Sys2Proof.Machine

/-! ### Cells -/

/-- The capture cell after a cycle (R103, R113). -/
theorem captureCell_eq_true_iff (set cap a : Bool) :
    captureCell set cap a = true ↔ set = true ∨ (cap = true ∧ a = false) := by
  cases set <;> cases cap <;> cases a <;> decide

/-- A set wins. -/
@[simp] theorem captureCell_set (cap a : Bool) : captureCell true cap a = true := rfl

/-- An acknowledged cell holds what sets it. -/
@[simp] theorem captureCell_ack (set cap : Bool) : captureCell set cap true = set := by
  cases set <;> cases cap <;> rfl

/-- Without an acknowledge and without a set the cell holds. -/
@[simp] theorem captureCell_hold (cap : Bool) : captureCell false cap false = cap := by cases cap <;> rfl

/-- A clear cell takes what sets it. -/
@[simp] theorem captureCell_idle (set a : Bool) : captureCell set false a = set := by
  cases set <;> cases a <;> rfl

/-- A steady line makes no transition (R102). -/
@[simp] theorem recogniseEdge_steady (e : EdgeSel) (b : Bool) : recogniseEdge e b b = false := by
  cases e <;> cases b <;> rfl

/-- What edge recognition recognises, by direction (R102). -/
theorem recogniseEdge_eq_true_iff (e : EdgeSel) (l r : Bool) : recogniseEdge e l r = true ↔
    ((e = .any ∧ l ≠ r) ∨ (e = .rise ∧ l = false ∧ r = true) ∨ (e = .fall ∧ l = true ∧ r = false)) := by
  cases e <;> cases l <;> cases r <;> decide

/-! ### Event words -/

/-- The kind of a word made of a kind and a payload. -/
theorem evKind_append (k : BitVec 3) (v : Payload) : evKind (k ++ v) = k := by
  apply BitVec.eq_of_toNat_eq
  have h : ((k ++ v : BitVec (3 + 6))).toNat = k.toNat * 2 ^ 6 + v.toNat := toNat_append_add k v
  have := v.isLt
  have := k.isLt
  rw [evKind, toNat_slice]
  refine (congrArg (fun n => n / 2 ^ 6 % 2 ^ 3) h).trans ?_
  omega

/-- The payload of a word made of a kind and a payload. -/
theorem evPayload_append (k : BitVec 3) (v : Payload) : evPayload (k ++ v) = v := by
  apply BitVec.eq_of_toNat_eq
  have h : ((k ++ v : BitVec (3 + 6))).toNat = k.toNat * 2 ^ 6 + v.toNat := toNat_append_add k v
  have := v.isLt
  rw [evPayload, toNat_slice]
  refine (congrArg (fun n => n / 2 ^ 0 % 2 ^ 6) h).trans ?_
  omega

/-- The bus carries an event unchanged (R63). -/
@[simp] theorem decodeEv9_encodeEv9 (e : Event) : decodeEv9 (encodeEv9 e) = e := by
  cases e <;> simp only [encodeEv9, decodeEv9, evKind_append, evPayload_append] <;> rfl

/-- An event's operation is decoded from its word. -/
@[simp] theorem decode_encodeEv9 (e : Event) : decode (.ev9 (encodeEv9 e)) = .ok e.toInstr := by
  simp [decode]

/-- Events and their operations are in one-to-one correspondence. -/
theorem Event.toInstr_inj {e f : Event} (h : e.toInstr = f.toInstr) : e = f := by
  cases e <;> cases f <;> simp_all [Event.toInstr]

/-! ### Event derivation -/

@[simp] theorem EventOut.idle_ev : EventOut.idle.ev = encodeEv9 .noop := rfl
@[simp] theorem EventOut.idle_ackBtn : EventOut.idle.ackBtn = false := rfl

/-- EVT_EDGE acknowledges exactly when the bit is set (R107). -/
@[simp] theorem evtEdge_ackBtn (c : Params) (cap lvl : Bool) : (evtEdge c cap lvl).ackBtn = cap := by
  cases cap <;> rfl

/-- The event of EVT_EDGE (R107, R108). -/
theorem evtEdge_ev (c : Params) (cap lvl : Bool) :
    (evtEdge c cap lvl).ev = encodeEv9 (if cap && lvl then .bump c.bumpAmount else .noop) := by
  cases cap <;> cases lvl <;> rfl

/-- The exit bit of a switch word, in numbers (R110). -/
theorem exitField_eq (c : Params) (w : SW10) : exitField c w = decide (w.toNat / 2 ^ c.exitBit % 2 = 1) := by
  simp [exitField, BitVec.getLsbD, Nat.testBit_eq_decide_div_mod_eq]

/-- The select bits of a switch word, in numbers (R110). -/
theorem toNat_selField (c : Params) (w : SW10) : (selField c w).toNat = w.toNat / 2 ^ c.selLsb % 4 :=
  toNat_slice w c.selLsb 2

/-- The value bits of a switch word, in numbers (R110, R67). -/
theorem toNat_valField (c : Params) (w : SW10) : (valField c w).toNat = w.toNat / 2 ^ c.valLsb % 64 :=
  toNat_slice w c.valLsb 6

@[simp] theorem evtLevel_ackBtn (c : Params) (w : SW10) (b : Bool) : (evtLevel c w b).ackBtn = false := rfl
@[simp] theorem evtLevel_ev (c : Params) (w : SW10) (b : Bool) :
    (evtLevel c w b).ev = encodeEv9 (levelEvent c w b) := rfl

end Sys2Proof.Machine
end

