-- ==== Sys2Proof/Laws/Clock.lean ====
section
/-! SUPPORT. What an event and a tick can do to the clock state, said once. -/

namespace Sys2Proof.Machine

/-! ### Events -/

@[simp] theorem Clock.setSec_hours (v : Payload) (c : Clock) : (Clock.setSec v c).hours = c.hours := rfl
@[simp] theorem Clock.setSec_halted (v : Payload) (c : Clock) : (Clock.setSec v c).halted = c.halted := rfl
@[simp] theorem Clock.setMin_hours (v : Payload) (c : Clock) : (Clock.setMin v c).hours = c.hours := rfl
@[simp] theorem Clock.setMin_halted (v : Payload) (c : Clock) : (Clock.setMin v c).halted = c.halted := rfl
@[simp] theorem Clock.setHrs_packedTime (v : Payload) (c : Clock) : (Clock.setHrs v c).packedTime = c.packedTime := rfl
@[simp] theorem Clock.setHrs_halted (v : Payload) (c : Clock) : (Clock.setHrs v c).halted = c.halted := rfl
@[simp] theorem Clock.exit_packedTime (c : Clock) : c.exit.packedTime = c.packedTime := rfl
@[simp] theorem Clock.exit_hours (c : Clock) : c.exit.hours = c.hours := rfl
@[simp] theorem Clock.exit_halted (c : Clock) : c.exit.halted = true := rfl

/-- BUMP on a word that decodes (R127). -/
theorem Clock.bump_of_digitsOk (n : Nat) {c : Clock} (h : digitsOk c.packedTime = true) :
    let tot := 60 * minutesOf c.packedTime + secondsOf c.packedTime + n
    Clock.bump n c = { c with hours := BitVec.ofNat 7 ((c.hours.toNat + tot / 3600) % hoursMod),
                              packedTime := enc (tot % 3600 / 60) (tot % 60) } := by
  obtain ⟨hm, hs⟩ := dec_toNat h
  have hk : (dec c.packedTime).ok = true := (dec_ok _).trans h
  simp only [Clock.bump, hk, if_true, hm, hs]

/-- BUMP leaves a word that does not decode alone (R127). -/
theorem Clock.bump_of_not_digitsOk (n : Nat) {c : Clock} (h : digitsOk c.packedTime = false) :
    Clock.bump n c = c := by
  have hk : (dec c.packedTime).ok = false := (dec_ok _).trans h
  simp [Clock.bump, hk]

@[simp] theorem Clock.bump_halted (n : Nat) (c : Clock) : (Clock.bump n c).halted = c.halted := by
  cases h : digitsOk c.packedTime
  · rw [Clock.bump_of_not_digitsOk n h]
  · rw [Clock.bump_of_digitsOk n h]

/-- Only EXIT sets the halt flag (R129), and no event clears it. -/
theorem applyEvent_halted (e : Event) (c : Clock) : (applyEvent e c).halted = true ↔ e = .exit ∨ c.halted = true := by
  cases e <;> simp [applyEvent]

/-- The digits SET_SEC writes, and the minutes it keeps (R124). -/
theorem Clock.setSec_digits (v : Payload) (c : Clock) :
    minTens (Clock.setSec v c).packedTime = minTens c.packedTime ∧
    minOnes (Clock.setSec v c).packedTime = minOnes c.packedTime ∧
    secTens (Clock.setSec v c).packedTime = BitVec.ofNat 4 (v.toNat % 60 / 10) ∧
    secOnes (Clock.setSec v c).packedTime = BitVec.ofNat 4 (v.toNat % 60 % 10) := by
  obtain ⟨h1, h2, h3, h4⟩ := digits_append (minByte c.packedTime) (bcd2 (v.toNat % 60))
  obtain ⟨g1, g2, -, -⟩ := digits_append (minByte c.packedTime) (secByte c.packedTime)
  rw [show minByte c.packedTime ++ secByte c.packedTime = c.packedTime from minByte_append_secByte _] at g1 g2
  exact ⟨h1.trans g1.symm, h2.trans g2.symm, h3.trans (bcd2_tens _), h4.trans (bcd2_ones _)⟩

/-- The digits SET_MIN writes, and the seconds it keeps (R125). -/
theorem Clock.setMin_digits (v : Payload) (c : Clock) :
    minTens (Clock.setMin v c).packedTime = BitVec.ofNat 4 (v.toNat % 60 / 10) ∧
    minOnes (Clock.setMin v c).packedTime = BitVec.ofNat 4 (v.toNat % 60 % 10) ∧
    secTens (Clock.setMin v c).packedTime = secTens c.packedTime ∧
    secOnes (Clock.setMin v c).packedTime = secOnes c.packedTime := by
  obtain ⟨h1, h2, h3, h4⟩ := digits_append (bcd2 (v.toNat % 60)) (secByte c.packedTime)
  obtain ⟨-, -, g3, g4⟩ := digits_append (minByte c.packedTime) (secByte c.packedTime)
  rw [show minByte c.packedTime ++ secByte c.packedTime = c.packedTime from minByte_append_secByte _] at g3 g4
  exact ⟨h1.trans (bcd2_tens _), h2.trans (bcd2_ones _), h3.trans g3.symm, h4.trans g4.symm⟩

/-- Hours written modulo 100 fit their seven bits. -/
theorem toNat_hours_mod (n : Nat) : (BitVec.ofNat 7 (n % hoursMod)).toNat = n % 100 := by
  simp only [hoursMod, BitVec.toNat_ofNat]
  omega

/-- An event keeps a valid time and hours of at most 99 (R137). -/
theorem applyEvent_keeps_valid (e : Event) {c : Clock} (hp : validPT c.packedTime = true) (hh : c.hours.toNat ≤ 99) :
    validPT (applyEvent e c).packedTime = true ∧ (applyEvent e c).hours.toNat ≤ 99 := by
  cases e with
  | noop => exact ⟨hp, hh⟩
  | exit => exact ⟨hp, hh⟩
  | setHrs v =>
    refine ⟨hp, ?_⟩
    simp only [applyEvent, Clock.setHrs, toNat_hours_mod]
    omega
  | setSec v =>
    refine ⟨?_, hh⟩
    obtain ⟨h1, h2, h3, h4⟩ := Clock.setSec_digits v c
    rw [validPT_iff] at hp ⊢
    simp only [applyEvent]
    rw [h1, h2, h3, h4, toNat_digit (by omega), toNat_digit (by omega)]
    omega
  | setMin v =>
    refine ⟨?_, hh⟩
    obtain ⟨h1, h2, h3, h4⟩ := Clock.setMin_digits v c
    rw [validPT_iff] at hp ⊢
    simp only [applyEvent]
    rw [h1, h2, h3, h4, toNat_digit (by omega), toNat_digit (by omega)]
    omega
  | bump n =>
    simp only [applyEvent]
    rw [Clock.bump_of_digitsOk _ (digitsOk_of_validPT hp)]
    refine ⟨validPT_enc _ _, ?_⟩
    simp only [toNat_hours_mod]
    omega

/-! ### Ticks -/

/-- The hours after the carry (R132). -/
theorem hourCarry_toNat (h : Hours) : (hourCarry h true).toNat = (h.toNat + 1) % 100 := by
  simp only [hourCarry, if_true, toNat_hours_mod]

@[simp] theorem hourCarry_false (h : Hours) : hourCarry h false = h := rfl

/-- A tick below the threshold counts (R130). -/
theorem tick_of_lt {n : Nat} {p : PT16} {h : Hours} {sub : SubTick} (hn : sub.toNat + 1 < n) :
    tick n p h sub = ⟨p, h, BitVec.ofNat 4 (sub.toNat + 1), false⟩ := by
  simp [tick, Nat.not_le.mpr hn]

/-- A tick that reaches the threshold advances (R130). -/
theorem tick_of_le {n : Nat} {p : PT16} {h : Hours} {sub : SubTick} (hn : n ≤ sub.toNat + 1) :
    tick n p h sub = advance p h := by
  simp [tick, hn]

/-- A tick advances exactly when it reaches the threshold (R135). -/
theorem tick_refresh (n : Nat) (p : PT16) (h : Hours) (sub : SubTick) :
    (tick n p h sub).refresh = decide (n ≤ sub.toNat + 1) := by
  by_cases hn : n ≤ sub.toNat + 1
  · simp [tick_of_le hn, advance, hn]
  · simp [tick_of_lt (Nat.not_le.mp hn), hn]

/-- An advance keeps a valid time and hours of at most 99 (R137). -/
theorem advance_keeps_valid {p : PT16} {h : Hours} (hp : validPT p = true) (hh : h.toNat ≤ 99) :
    validPT (advance p h).packedTime = true ∧ (advance p h).hours.toNat ≤ 99 := by
  simp only [advance, inc_of_validPT hp]
  refine ⟨(incDigits_spec hp).1, ?_⟩
  cases (incDigits p == 0)
  · simpa using hh
  · rw [hourCarry_toNat]; omega

/-- A tick keeps the invariant of the clock state (R137). -/
theorem tick_keeps_valid {n : Nat} {p : PT16} {h : Hours} {sub : SubTick} (h0 : 1 ≤ n) (h15 : n ≤ 15)
    (hp : validPT p = true) (hh : h.toNat ≤ 99) :
    validPT (tick n p h sub).packedTime = true ∧ (tick n p h sub).hours.toNat ≤ 99 ∧
      (tick n p h sub).subTickCount.toNat < n := by
  by_cases hn : n ≤ sub.toNat + 1
  · rw [tick_of_le hn]
    obtain ⟨a, b⟩ := advance_keeps_valid hp hh
    refine ⟨a, b, ?_⟩
    simp only [advance]
    exact h0
  · rw [tick_of_lt (Nat.not_le.mp hn)]
    refine ⟨hp, hh, ?_⟩
    rw [toNat_digit (by omega)]
    omega

end Sys2Proof.Machine
end

