-- ==== Sys2Proof/Laws/State.lean ====
section
/-! SUPPORT. One lemma per field per named update of the state, true by rfl, and the projections of the cycle, so that no
later proof unfolds a record update. -/

namespace Sys2Proof.Machine

variable (s : State)

/-! ### setTime -/

@[simp] theorem State.setTime_cfg (p : PT16) (h : Hours) : (s.setTime p h).cfg = s.cfg := rfl
@[simp] theorem State.setTime_packedTime (p : PT16) (h : Hours) : (s.setTime p h).packedTime = p := rfl
@[simp] theorem State.setTime_hours (p : PT16) (h : Hours) : (s.setTime p h).hours = h := rfl
@[simp] theorem State.setTime_subTickCount (p : PT16) (h : Hours) :
    (s.setTime p h).subTickCount = s.subTickCount := rfl
@[simp] theorem State.setTime_halted (p : PT16) (h : Hours) : (s.setTime p h).halted = s.halted := rfl
@[simp] theorem State.setTime_tickPending (p : PT16) (h : Hours) : (s.setTime p h).tickPending = s.tickPending := rfl
@[simp] theorem State.setTime_btnCap (p : PT16) (h : Hours) : (s.setTime p h).btnCap = s.btnCap := rfl
@[simp] theorem State.setTime_btnLvl (p : PT16) (h : Hours) : (s.setTime p h).btnLvl = s.btnLvl := rfl
@[simp] theorem State.setTime_swLvl (p : PT16) (h : Hours) : (s.setTime p h).swLvl = s.swLvl := rfl
@[simp] theorem State.setTime_ext (p : PT16) (h : Hours) : (s.setTime p h).ext = s.ext := rfl
@[simp] theorem State.setTime_wires (p : PT16) (h : Hours) : (s.setTime p h).wires = s.wires := rfl
@[simp] theorem State.setTime_hostRead (p : PT16) (h : Hours) : (s.setTime p h).hostRead = s.hostRead := rfl
@[simp] theorem State.setTime_timeRead (p : PT16) (h : Hours) : (s.setTime p h).timeRead = s.timeRead := rfl
@[simp] theorem State.setTime_trace (p : PT16) (h : Hours) : (s.setTime p h).trace = s.trace := rfl
@[simp] theorem State.setTime_cycle (p : PT16) (h : Hours) : (s.setTime p h).cycle = s.cycle := rfl

/-! ### setSub -/

@[simp] theorem State.setSub_cfg (c : SubTick) : (s.setSub c).cfg = s.cfg := rfl
@[simp] theorem State.setSub_packedTime (c : SubTick) : (s.setSub c).packedTime = s.packedTime := rfl
@[simp] theorem State.setSub_hours (c : SubTick) : (s.setSub c).hours = s.hours := rfl
@[simp] theorem State.setSub_subTickCount (c : SubTick) : (s.setSub c).subTickCount = c := rfl
@[simp] theorem State.setSub_halted (c : SubTick) : (s.setSub c).halted = s.halted := rfl
@[simp] theorem State.setSub_tickPending (c : SubTick) : (s.setSub c).tickPending = s.tickPending := rfl
@[simp] theorem State.setSub_btnCap (c : SubTick) : (s.setSub c).btnCap = s.btnCap := rfl
@[simp] theorem State.setSub_btnLvl (c : SubTick) : (s.setSub c).btnLvl = s.btnLvl := rfl
@[simp] theorem State.setSub_swLvl (c : SubTick) : (s.setSub c).swLvl = s.swLvl := rfl
@[simp] theorem State.setSub_ext (c : SubTick) : (s.setSub c).ext = s.ext := rfl
@[simp] theorem State.setSub_wires (c : SubTick) : (s.setSub c).wires = s.wires := rfl
@[simp] theorem State.setSub_hostRead (c : SubTick) : (s.setSub c).hostRead = s.hostRead := rfl
@[simp] theorem State.setSub_timeRead (c : SubTick) : (s.setSub c).timeRead = s.timeRead := rfl
@[simp] theorem State.setSub_trace (c : SubTick) : (s.setSub c).trace = s.trace := rfl
@[simp] theorem State.setSub_cycle (c : SubTick) : (s.setSub c).cycle = s.cycle := rfl

/-! ### setHalted -/

@[simp] theorem State.setHalted_cfg (b : Bool) : (s.setHalted b).cfg = s.cfg := rfl
@[simp] theorem State.setHalted_packedTime (b : Bool) : (s.setHalted b).packedTime = s.packedTime := rfl
@[simp] theorem State.setHalted_hours (b : Bool) : (s.setHalted b).hours = s.hours := rfl
@[simp] theorem State.setHalted_subTickCount (b : Bool) : (s.setHalted b).subTickCount = s.subTickCount := rfl
@[simp] theorem State.setHalted_halted (b : Bool) : (s.setHalted b).halted = b := rfl
@[simp] theorem State.setHalted_tickPending (b : Bool) : (s.setHalted b).tickPending = s.tickPending := rfl
@[simp] theorem State.setHalted_btnCap (b : Bool) : (s.setHalted b).btnCap = s.btnCap := rfl
@[simp] theorem State.setHalted_btnLvl (b : Bool) : (s.setHalted b).btnLvl = s.btnLvl := rfl
@[simp] theorem State.setHalted_swLvl (b : Bool) : (s.setHalted b).swLvl = s.swLvl := rfl
@[simp] theorem State.setHalted_ext (b : Bool) : (s.setHalted b).ext = s.ext := rfl
@[simp] theorem State.setHalted_wires (b : Bool) : (s.setHalted b).wires = s.wires := rfl
@[simp] theorem State.setHalted_hostRead (b : Bool) : (s.setHalted b).hostRead = s.hostRead := rfl
@[simp] theorem State.setHalted_timeRead (b : Bool) : (s.setHalted b).timeRead = s.timeRead := rfl
@[simp] theorem State.setHalted_trace (b : Bool) : (s.setHalted b).trace = s.trace := rfl
@[simp] theorem State.setHalted_cycle (b : Bool) : (s.setHalted b).cycle = s.cycle := rfl

/-! ### setTickPending -/

@[simp] theorem State.setTickPending_cfg (b : Bool) : (s.setTickPending b).cfg = s.cfg := rfl
@[simp] theorem State.setTickPending_packedTime (b : Bool) : (s.setTickPending b).packedTime = s.packedTime := rfl
@[simp] theorem State.setTickPending_hours (b : Bool) : (s.setTickPending b).hours = s.hours := rfl
@[simp] theorem State.setTickPending_subTickCount (b : Bool) :
    (s.setTickPending b).subTickCount = s.subTickCount := rfl
@[simp] theorem State.setTickPending_halted (b : Bool) : (s.setTickPending b).halted = s.halted := rfl
@[simp] theorem State.setTickPending_tickPending (b : Bool) : (s.setTickPending b).tickPending = b := rfl
@[simp] theorem State.setTickPending_btnCap (b : Bool) : (s.setTickPending b).btnCap = s.btnCap := rfl
@[simp] theorem State.setTickPending_btnLvl (b : Bool) : (s.setTickPending b).btnLvl = s.btnLvl := rfl
@[simp] theorem State.setTickPending_swLvl (b : Bool) : (s.setTickPending b).swLvl = s.swLvl := rfl
@[simp] theorem State.setTickPending_ext (b : Bool) : (s.setTickPending b).ext = s.ext := rfl
@[simp] theorem State.setTickPending_wires (b : Bool) : (s.setTickPending b).wires = s.wires := rfl
@[simp] theorem State.setTickPending_hostRead (b : Bool) : (s.setTickPending b).hostRead = s.hostRead := rfl
@[simp] theorem State.setTickPending_timeRead (b : Bool) : (s.setTickPending b).timeRead = s.timeRead := rfl
@[simp] theorem State.setTickPending_trace (b : Bool) : (s.setTickPending b).trace = s.trace := rfl
@[simp] theorem State.setTickPending_cycle (b : Bool) : (s.setTickPending b).cycle = s.cycle := rfl

/-! ### setBtnCap -/

@[simp] theorem State.setBtnCap_cfg (b : Bool) : (s.setBtnCap b).cfg = s.cfg := rfl
@[simp] theorem State.setBtnCap_packedTime (b : Bool) : (s.setBtnCap b).packedTime = s.packedTime := rfl
@[simp] theorem State.setBtnCap_hours (b : Bool) : (s.setBtnCap b).hours = s.hours := rfl
@[simp] theorem State.setBtnCap_subTickCount (b : Bool) : (s.setBtnCap b).subTickCount = s.subTickCount := rfl
@[simp] theorem State.setBtnCap_halted (b : Bool) : (s.setBtnCap b).halted = s.halted := rfl
@[simp] theorem State.setBtnCap_tickPending (b : Bool) : (s.setBtnCap b).tickPending = s.tickPending := rfl
@[simp] theorem State.setBtnCap_btnCap (b : Bool) : (s.setBtnCap b).btnCap = b := rfl
@[simp] theorem State.setBtnCap_btnLvl (b : Bool) : (s.setBtnCap b).btnLvl = s.btnLvl := rfl
@[simp] theorem State.setBtnCap_swLvl (b : Bool) : (s.setBtnCap b).swLvl = s.swLvl := rfl
@[simp] theorem State.setBtnCap_ext (b : Bool) : (s.setBtnCap b).ext = s.ext := rfl
@[simp] theorem State.setBtnCap_wires (b : Bool) : (s.setBtnCap b).wires = s.wires := rfl
@[simp] theorem State.setBtnCap_hostRead (b : Bool) : (s.setBtnCap b).hostRead = s.hostRead := rfl
@[simp] theorem State.setBtnCap_timeRead (b : Bool) : (s.setBtnCap b).timeRead = s.timeRead := rfl
@[simp] theorem State.setBtnCap_trace (b : Bool) : (s.setBtnCap b).trace = s.trace := rfl
@[simp] theorem State.setBtnCap_cycle (b : Bool) : (s.setBtnCap b).cycle = s.cycle := rfl

/-! ### setSamples -/

@[simp] theorem State.setSamples_cfg (b : Bool) (w : SW10) : (s.setSamples b w).cfg = s.cfg := rfl
@[simp] theorem State.setSamples_packedTime (b : Bool) (w : SW10) :
    (s.setSamples b w).packedTime = s.packedTime := rfl
@[simp] theorem State.setSamples_hours (b : Bool) (w : SW10) : (s.setSamples b w).hours = s.hours := rfl
@[simp] theorem State.setSamples_subTickCount (b : Bool) (w : SW10) :
    (s.setSamples b w).subTickCount = s.subTickCount := rfl
@[simp] theorem State.setSamples_halted (b : Bool) (w : SW10) : (s.setSamples b w).halted = s.halted := rfl
@[simp] theorem State.setSamples_tickPending (b : Bool) (w : SW10) :
    (s.setSamples b w).tickPending = s.tickPending := rfl
@[simp] theorem State.setSamples_btnCap (b : Bool) (w : SW10) : (s.setSamples b w).btnCap = s.btnCap := rfl
@[simp] theorem State.setSamples_btnLvl (b : Bool) (w : SW10) : (s.setSamples b w).btnLvl = b := rfl
@[simp] theorem State.setSamples_swLvl (b : Bool) (w : SW10) : (s.setSamples b w).swLvl = w := rfl
@[simp] theorem State.setSamples_ext (b : Bool) (w : SW10) : (s.setSamples b w).ext = s.ext := rfl
@[simp] theorem State.setSamples_wires (b : Bool) (w : SW10) : (s.setSamples b w).wires = s.wires := rfl
@[simp] theorem State.setSamples_hostRead (b : Bool) (w : SW10) : (s.setSamples b w).hostRead = s.hostRead := rfl
@[simp] theorem State.setSamples_timeRead (b : Bool) (w : SW10) : (s.setSamples b w).timeRead = s.timeRead := rfl
@[simp] theorem State.setSamples_trace (b : Bool) (w : SW10) : (s.setSamples b w).trace = s.trace := rfl
@[simp] theorem State.setSamples_cycle (b : Bool) (w : SW10) : (s.setSamples b w).cycle = s.cycle := rfl

/-! ### setExt -/

@[simp] theorem State.setExt_cfg (e : Neighbours) : (s.setExt e).cfg = s.cfg := rfl
@[simp] theorem State.setExt_packedTime (e : Neighbours) : (s.setExt e).packedTime = s.packedTime := rfl
@[simp] theorem State.setExt_hours (e : Neighbours) : (s.setExt e).hours = s.hours := rfl
@[simp] theorem State.setExt_subTickCount (e : Neighbours) : (s.setExt e).subTickCount = s.subTickCount := rfl
@[simp] theorem State.setExt_halted (e : Neighbours) : (s.setExt e).halted = s.halted := rfl
@[simp] theorem State.setExt_tickPending (e : Neighbours) : (s.setExt e).tickPending = s.tickPending := rfl
@[simp] theorem State.setExt_btnCap (e : Neighbours) : (s.setExt e).btnCap = s.btnCap := rfl
@[simp] theorem State.setExt_btnLvl (e : Neighbours) : (s.setExt e).btnLvl = s.btnLvl := rfl
@[simp] theorem State.setExt_swLvl (e : Neighbours) : (s.setExt e).swLvl = s.swLvl := rfl
@[simp] theorem State.setExt_ext (e : Neighbours) : (s.setExt e).ext = e := rfl
@[simp] theorem State.setExt_wires (e : Neighbours) : (s.setExt e).wires = s.wires := rfl
@[simp] theorem State.setExt_hostRead (e : Neighbours) : (s.setExt e).hostRead = s.hostRead := rfl
@[simp] theorem State.setExt_timeRead (e : Neighbours) : (s.setExt e).timeRead = s.timeRead := rfl
@[simp] theorem State.setExt_trace (e : Neighbours) : (s.setExt e).trace = s.trace := rfl
@[simp] theorem State.setExt_cycle (e : Neighbours) : (s.setExt e).cycle = s.cycle := rfl

/-! ### setWires -/

@[simp] theorem State.setWires_cfg (w : Wires) : (s.setWires w).cfg = s.cfg := rfl
@[simp] theorem State.setWires_packedTime (w : Wires) : (s.setWires w).packedTime = s.packedTime := rfl
@[simp] theorem State.setWires_hours (w : Wires) : (s.setWires w).hours = s.hours := rfl
@[simp] theorem State.setWires_subTickCount (w : Wires) : (s.setWires w).subTickCount = s.subTickCount := rfl
@[simp] theorem State.setWires_halted (w : Wires) : (s.setWires w).halted = s.halted := rfl
@[simp] theorem State.setWires_tickPending (w : Wires) : (s.setWires w).tickPending = s.tickPending := rfl
@[simp] theorem State.setWires_btnCap (w : Wires) : (s.setWires w).btnCap = s.btnCap := rfl
@[simp] theorem State.setWires_btnLvl (w : Wires) : (s.setWires w).btnLvl = s.btnLvl := rfl
@[simp] theorem State.setWires_swLvl (w : Wires) : (s.setWires w).swLvl = s.swLvl := rfl
@[simp] theorem State.setWires_ext (w : Wires) : (s.setWires w).ext = s.ext := rfl
@[simp] theorem State.setWires_wires (w : Wires) : (s.setWires w).wires = w := rfl
@[simp] theorem State.setWires_hostRead (w : Wires) : (s.setWires w).hostRead = s.hostRead := rfl
@[simp] theorem State.setWires_timeRead (w : Wires) : (s.setWires w).timeRead = s.timeRead := rfl
@[simp] theorem State.setWires_trace (w : Wires) : (s.setWires w).trace = s.trace := rfl
@[simp] theorem State.setWires_cycle (w : Wires) : (s.setWires w).cycle = s.cycle := rfl

/-! ### setHostRead -/

@[simp] theorem State.setHostRead_cfg (d : BusWord) : (s.setHostRead d).cfg = s.cfg := rfl
@[simp] theorem State.setHostRead_packedTime (d : BusWord) : (s.setHostRead d).packedTime = s.packedTime := rfl
@[simp] theorem State.setHostRead_hours (d : BusWord) : (s.setHostRead d).hours = s.hours := rfl
@[simp] theorem State.setHostRead_subTickCount (d : BusWord) : (s.setHostRead d).subTickCount = s.subTickCount := rfl
@[simp] theorem State.setHostRead_halted (d : BusWord) : (s.setHostRead d).halted = s.halted := rfl
@[simp] theorem State.setHostRead_tickPending (d : BusWord) : (s.setHostRead d).tickPending = s.tickPending := rfl
@[simp] theorem State.setHostRead_btnCap (d : BusWord) : (s.setHostRead d).btnCap = s.btnCap := rfl
@[simp] theorem State.setHostRead_btnLvl (d : BusWord) : (s.setHostRead d).btnLvl = s.btnLvl := rfl
@[simp] theorem State.setHostRead_swLvl (d : BusWord) : (s.setHostRead d).swLvl = s.swLvl := rfl
@[simp] theorem State.setHostRead_ext (d : BusWord) : (s.setHostRead d).ext = s.ext := rfl
@[simp] theorem State.setHostRead_wires (d : BusWord) : (s.setHostRead d).wires = s.wires := rfl
@[simp] theorem State.setHostRead_hostRead (d : BusWord) : (s.setHostRead d).hostRead = d := rfl
@[simp] theorem State.setHostRead_timeRead (d : BusWord) : (s.setHostRead d).timeRead = s.timeRead := rfl
@[simp] theorem State.setHostRead_trace (d : BusWord) : (s.setHostRead d).trace = s.trace := rfl
@[simp] theorem State.setHostRead_cycle (d : BusWord) : (s.setHostRead d).cycle = s.cycle := rfl

/-! ### setTimeRead -/

@[simp] theorem State.setTimeRead_cfg (t : TimeRead) : (s.setTimeRead t).cfg = s.cfg := rfl
@[simp] theorem State.setTimeRead_packedTime (t : TimeRead) : (s.setTimeRead t).packedTime = s.packedTime := rfl
@[simp] theorem State.setTimeRead_hours (t : TimeRead) : (s.setTimeRead t).hours = s.hours := rfl
@[simp] theorem State.setTimeRead_subTickCount (t : TimeRead) : (s.setTimeRead t).subTickCount = s.subTickCount := rfl
@[simp] theorem State.setTimeRead_halted (t : TimeRead) : (s.setTimeRead t).halted = s.halted := rfl
@[simp] theorem State.setTimeRead_tickPending (t : TimeRead) : (s.setTimeRead t).tickPending = s.tickPending := rfl
@[simp] theorem State.setTimeRead_btnCap (t : TimeRead) : (s.setTimeRead t).btnCap = s.btnCap := rfl
@[simp] theorem State.setTimeRead_btnLvl (t : TimeRead) : (s.setTimeRead t).btnLvl = s.btnLvl := rfl
@[simp] theorem State.setTimeRead_swLvl (t : TimeRead) : (s.setTimeRead t).swLvl = s.swLvl := rfl
@[simp] theorem State.setTimeRead_ext (t : TimeRead) : (s.setTimeRead t).ext = s.ext := rfl
@[simp] theorem State.setTimeRead_wires (t : TimeRead) : (s.setTimeRead t).wires = s.wires := rfl
@[simp] theorem State.setTimeRead_hostRead (t : TimeRead) : (s.setTimeRead t).hostRead = s.hostRead := rfl
@[simp] theorem State.setTimeRead_timeRead (t : TimeRead) : (s.setTimeRead t).timeRead = t := rfl
@[simp] theorem State.setTimeRead_trace (t : TimeRead) : (s.setTimeRead t).trace = s.trace := rfl
@[simp] theorem State.setTimeRead_cycle (t : TimeRead) : (s.setTimeRead t).cycle = s.cycle := rfl

/-! ### nextCycle -/

@[simp] theorem State.nextCycle_cfg : (s.nextCycle).cfg = s.cfg := rfl
@[simp] theorem State.nextCycle_packedTime : (s.nextCycle).packedTime = s.packedTime := rfl
@[simp] theorem State.nextCycle_hours : (s.nextCycle).hours = s.hours := rfl
@[simp] theorem State.nextCycle_subTickCount : (s.nextCycle).subTickCount = s.subTickCount := rfl
@[simp] theorem State.nextCycle_halted : (s.nextCycle).halted = s.halted := rfl
@[simp] theorem State.nextCycle_tickPending : (s.nextCycle).tickPending = s.tickPending := rfl
@[simp] theorem State.nextCycle_btnCap : (s.nextCycle).btnCap = s.btnCap := rfl
@[simp] theorem State.nextCycle_btnLvl : (s.nextCycle).btnLvl = s.btnLvl := rfl
@[simp] theorem State.nextCycle_swLvl : (s.nextCycle).swLvl = s.swLvl := rfl
@[simp] theorem State.nextCycle_ext : (s.nextCycle).ext = s.ext := rfl
@[simp] theorem State.nextCycle_wires : (s.nextCycle).wires = s.wires := rfl
@[simp] theorem State.nextCycle_hostRead : (s.nextCycle).hostRead = s.hostRead := rfl
@[simp] theorem State.nextCycle_timeRead : (s.nextCycle).timeRead = s.timeRead := rfl
@[simp] theorem State.nextCycle_trace : (s.nextCycle).trace = s.trace.tail := rfl
@[simp] theorem State.nextCycle_cycle : (s.nextCycle).cycle = s.cycle + 1 := rfl

/-! ### hostPhase -/

@[simp] theorem State.hostPhase_cfg : (s.hostPhase).cfg = s.cfg := rfl
@[simp] theorem State.hostPhase_packedTime : (s.hostPhase).packedTime = s.packedTime := rfl
@[simp] theorem State.hostPhase_hours : (s.hostPhase).hours = s.hours := rfl
@[simp] theorem State.hostPhase_subTickCount : (s.hostPhase).subTickCount = s.subTickCount := rfl
@[simp] theorem State.hostPhase_halted : (s.hostPhase).halted = s.halted := rfl
@[simp] theorem State.hostPhase_tickPending : (s.hostPhase).tickPending = s.tickPending := rfl
@[simp] theorem State.hostPhase_btnCap : (s.hostPhase).btnCap = s.btnCap := rfl
@[simp] theorem State.hostPhase_btnLvl : (s.hostPhase).btnLvl = s.btnLvl := rfl
@[simp] theorem State.hostPhase_swLvl : (s.hostPhase).swLvl = s.swLvl := rfl
@[simp] theorem State.hostPhase_ext : (s.hostPhase).ext = s.ext.after s.inputs.host := rfl
@[simp] theorem State.hostPhase_wires : (s.hostPhase).wires = s.wires := rfl
@[simp] theorem State.hostPhase_hostRead : (s.hostPhase).hostRead = s.wordAfter s.inputs.host := rfl
@[simp] theorem State.hostPhase_timeRead :
    (s.hostPhase).timeRead = if s.inputs.rdTime then s.timePorts else s.timeRead := rfl
@[simp] theorem State.hostPhase_trace : (s.hostPhase).trace = s.trace := rfl
@[simp] theorem State.hostPhase_cycle : (s.hostPhase).cycle = s.cycle := rfl

/-! ### applyReset -/

@[simp] theorem State.applyReset_cfg : (s.applyReset).cfg = s.cfg := rfl
@[simp] theorem State.applyReset_packedTime : (s.applyReset).packedTime = s.cfg.seedPacked := rfl
@[simp] theorem State.applyReset_hours : (s.applyReset).hours = s.cfg.seedHours := rfl
@[simp] theorem State.applyReset_subTickCount : (s.applyReset).subTickCount = 0 := rfl
@[simp] theorem State.applyReset_halted : (s.applyReset).halted = false := rfl
@[simp] theorem State.applyReset_tickPending : (s.applyReset).tickPending = false := rfl
@[simp] theorem State.applyReset_btnCap : (s.applyReset).btnCap = false := rfl
@[simp] theorem State.applyReset_btnLvl : (s.applyReset).btnLvl = false := rfl
@[simp] theorem State.applyReset_swLvl : (s.applyReset).swLvl = 0 := rfl
@[simp] theorem State.applyReset_ext : (s.applyReset).ext = s.ext := rfl
@[simp] theorem State.applyReset_wires : (s.applyReset).wires = s.wires.quiet := rfl
@[simp] theorem State.applyReset_hostRead : (s.applyReset).hostRead = s.hostRead := rfl
@[simp] theorem State.applyReset_timeRead : (s.applyReset).timeRead = s.timeRead := rfl
@[simp] theorem State.applyReset_trace : (s.applyReset).trace = s.trace := rfl
@[simp] theorem State.applyReset_cycle : (s.applyReset).cycle = s.cycle := rfl

/-! ### runCycle -/

@[simp] theorem State.runCycle_cfg : (s.runCycle).cfg = s.cfg := rfl
@[simp] theorem State.runCycle_packedTime : (s.runCycle).packedTime = s.phase2.packedTime := rfl
@[simp] theorem State.runCycle_hours : (s.runCycle).hours = s.phase2.hours := rfl
@[simp] theorem State.runCycle_subTickCount : (s.runCycle).subTickCount = s.phase2.subTickCount := rfl
@[simp] theorem State.runCycle_halted : (s.runCycle).halted = s.phase1.halted := rfl
@[simp] theorem State.runCycle_tickPending :
    (s.runCycle).tickPending = captureCell s.inputs.tmrTimeout s.tickPending (s.serveTick || s.hostAckTick) := rfl
@[simp] theorem State.runCycle_btnCap :
    (s.runCycle).btnCap = captureCell s.trans s.btnCap (s.event.ackBtn || s.hostAckBtn) := rfl
@[simp] theorem State.runCycle_btnLvl : (s.runCycle).btnLvl = s.inputs.btnRaw := rfl
@[simp] theorem State.runCycle_swLvl : (s.runCycle).swLvl = s.inputs.swRaw := rfl
@[simp] theorem State.runCycle_ext : (s.runCycle).ext = s.ext := rfl
@[simp] theorem State.runCycle_wires : (s.runCycle).wires = s.cycleWires := rfl
@[simp] theorem State.runCycle_hostRead : (s.runCycle).hostRead = s.hostRead := rfl
@[simp] theorem State.runCycle_timeRead : (s.runCycle).timeRead = s.timeRead := rfl
@[simp] theorem State.runCycle_trace : (s.runCycle).trace = s.trace := rfl
@[simp] theorem State.runCycle_cycle : (s.runCycle).cycle = s.cycle := rfl

/-! ### The inputs of the cycle -/

@[simp] theorem State.setTime_inputs (p : PT16) (h : Hours) : (s.setTime p h).inputs = s.inputs := rfl
@[simp] theorem State.setSub_inputs (c : SubTick) : (s.setSub c).inputs = s.inputs := rfl
@[simp] theorem State.setHalted_inputs (b : Bool) : (s.setHalted b).inputs = s.inputs := rfl
@[simp] theorem State.setTickPending_inputs (b : Bool) : (s.setTickPending b).inputs = s.inputs := rfl
@[simp] theorem State.setBtnCap_inputs (b : Bool) : (s.setBtnCap b).inputs = s.inputs := rfl
@[simp] theorem State.setSamples_inputs (b : Bool) (w : SW10) : (s.setSamples b w).inputs = s.inputs := rfl
@[simp] theorem State.setExt_inputs (e : Neighbours) : (s.setExt e).inputs = s.inputs := rfl
@[simp] theorem State.setWires_inputs (w : Wires) : (s.setWires w).inputs = s.inputs := rfl
@[simp] theorem State.setHostRead_inputs (d : BusWord) : (s.setHostRead d).inputs = s.inputs := rfl
@[simp] theorem State.setTimeRead_inputs (t : TimeRead) : (s.setTimeRead t).inputs = s.inputs := rfl
@[simp] theorem State.hostPhase_inputs : (s.hostPhase).inputs = s.inputs := rfl
@[simp] theorem State.applyReset_inputs : (s.applyReset).inputs = s.inputs := rfl
@[simp] theorem State.runCycle_inputs : (s.runCycle).inputs = s.inputs := rfl

/-- The machine right after reset, with the parameters given. -/
theorem State.resetWith_core (c : Params) :
    (State.resetWith c).packedTime = c.seedPacked ∧ (State.resetWith c).hours = c.seedHours ∧
      (State.resetWith c).subTickCount = 0 ∧ (State.resetWith c).cfg = c := ⟨rfl, rfl, rfl, rfl⟩

end Sys2Proof.Machine
end

