-- ==== Sys2Proof/Laws/Cycle.lean ====
section
/-! SUPPORT. What one cycle can do, said once: STEP, the step of the machine around it, and the wires of a cycle. -/

namespace Sys2Proof.Machine

variable (s : State)

/-! ### STEP -/

/-- All that STEP can answer (R120, R7). -/
theorem execStep_cases :
    (s.cfg.refusedPair = true ∧ execStep s = .refused .irqWithLevel) ∨
    (s.cfg.refusedPair = false ∧ s.inputs.rst = true ∧ execStep s = .next s.applyReset) ∨
    (s.cfg.refusedPair = false ∧ s.inputs.rst = false ∧ execStep s = .next s.runCycle) := by
  unfold execStep
  cases s.cfg.refusedPair <;> cases s.inputs.rst <;> simp

/-- STEP in a cycle without reset. -/
theorem execStep_run (hc : s.cfg.refusedPair = false) (hr : s.inputs.rst = false) :
    execStep s = .next s.runCycle := by
  simp [execStep, hc, hr]

/-- STEP in a reset cycle. -/
theorem execStep_reset (hc : s.cfg.refusedPair = false) (hr : s.inputs.rst = true) :
    execStep s = .next s.applyReset := by
  simp [execStep, hc, hr]

/-- What STEP did when it answers a next state. -/
theorem execStep_next {s t : State} (h : execStep s = .next t) :
    s.cfg.refusedPair = false ∧
      ((s.inputs.rst = true ∧ t = s.applyReset) ∨ (s.inputs.rst = false ∧ t = s.runCycle)) := by
  rcases execStep_cases s with ⟨_, e⟩ | ⟨hc, hr, e⟩ | ⟨hc, hr, e⟩ <;> rw [e] at h
  · exact nomatch h
  · cases h; exact ⟨hc, .inl ⟨hr, rfl⟩⟩
  · cases h; exact ⟨hc, .inr ⟨hr, rfl⟩⟩

/-! ### The machine's step -/

/-- The step of the machine in a cycle without reset. -/
theorem step_run (hc : s.cfg.refusedPair = false) (hr : s.inputs.rst = false) :
    step s = .next s.hostPhase.runCycle.nextCycle := by
  have : execStep s.hostPhase = .next s.hostPhase.runCycle := execStep_run _ hc hr
  simp [step, exec, this]

/-- The step of the machine in a reset cycle. -/
theorem step_reset (hc : s.cfg.refusedPair = false) (hr : s.inputs.rst = true) :
    step s = .next s.hostPhase.applyReset.nextCycle := by
  have : execStep s.hostPhase = .next s.hostPhase.applyReset := execStep_reset _ hc hr
  simp [step, exec, this]

/-- The step of the machine in the refused configuration. -/
theorem step_refused (hc : s.cfg.refusedPair = true) : step s = .refused .irqWithLevel := by
  have : execStep s.hostPhase = .refused .irqWithLevel := by
    simp [execStep, hc]
  simp [step, exec, this]

/-- What the machine did when it answers a next state. -/
theorem step_next {s t : State} (h : step s = .next t) :
    s.cfg.refusedPair = false ∧
      ((s.inputs.rst = true ∧ t = s.hostPhase.applyReset.nextCycle) ∨
        (s.inputs.rst = false ∧ t = s.hostPhase.runCycle.nextCycle)) := by
  cases hc : s.cfg.refusedPair
  · cases hr : s.inputs.rst
    · rw [step_run s hc hr] at h; cases h; exact ⟨rfl, .inr ⟨rfl, rfl⟩⟩
    · rw [step_reset s hc hr] at h; cases h; exact ⟨rfl, .inl ⟨rfl, rfl⟩⟩
  · rw [step_refused s hc] at h; exact nomatch h

/-! ### The wires of a cycle do not see the host's accesses -/

@[simp] theorem State.hostPhase_event : s.hostPhase.event = s.event := rfl
@[simp] theorem State.hostPhase_phase1 : s.hostPhase.phase1 = s.phase1 := rfl
@[simp] theorem State.hostPhase_phase2 : s.hostPhase.phase2 = s.phase2 := rfl
@[simp] theorem State.hostPhase_serveTick : s.hostPhase.serveTick = s.serveTick := rfl
@[simp] theorem State.hostPhase_trans : s.hostPhase.trans = s.trans := rfl
@[simp] theorem State.hostPhase_hostAckBtn : s.hostPhase.hostAckBtn = s.hostAckBtn := rfl
@[simp] theorem State.hostPhase_hostAckTick : s.hostPhase.hostAckTick = s.hostAckTick := rfl
@[simp] theorem State.hostPhase_core : s.hostPhase.core = s.core := rfl
@[simp] theorem State.nextCycle_core : s.nextCycle.core = s.core := rfl

/-- The registers of the core after a cycle are those of the core's own cycle. -/
@[simp] theorem State.hostPhase_runCycle_core : s.hostPhase.runCycle.core = s.runCycle.core := rfl

/-! ### Phases -/

/-- Outside a dispatch cycle there is no event (R120). -/
theorem State.event_of_inactive {s : State} (h : s.active = false) : s.event = .idle := by
  simp [State.event, h]

/-- The event of a dispatch cycle in edge mode. -/
theorem State.event_of_edge {s : State} (h : s.active = true) (hm : s.cfg.inputMode = .edge) :
    s.event = evtEdge s.cfg s.btnCap s.btnLvl := by
  simp [State.event, h, hm]

/-- The event of a dispatch cycle in level mode. -/
theorem State.event_of_level {s : State} (h : s.active = true) (hm : s.cfg.inputMode = .level) :
    s.event = evtLevel s.cfg s.swLvl s.btnLvl := by
  simp [State.event, h, hm]

/-- Outside a dispatch cycle phase 1 holds the clock state. -/
theorem State.phase1_of_inactive {s : State} (h : s.active = false) : s.phase1 = s.clock := by
  simp [State.phase1, State.event_of_inactive h, applyEvent]

/-- Outside a dispatch cycle no tick is served. -/
theorem State.serveTick_of_inactive {s : State} (h : s.active = false) : s.serveTick = false := by
  simp [State.serveTick, h]

/-- When a tick is served (R120, R121). -/
theorem State.serveTick_eq_true_iff (s : State) : s.serveTick = true ↔ s.active = true ∧ s.tickPending = true ∧
    s.phase1.halted = false ∧ (s.cfg.dispatchMode = .poll ∨ s.btnCap = false) := by
  simp [State.serveTick, and_assoc]

/-- In edge mode no event halts the core (R107). -/
theorem State.phase1_halted_of_edge {s : State} (hm : s.cfg.inputMode = .edge) : s.phase1.halted = s.halted := by
  cases ha : s.active
  · rw [State.phase1_of_inactive ha]; rfl
  · rw [State.phase1, State.event_of_edge ha hm, evtEdge_ev, decodeEv9_encodeEv9]
    split
    · simp only [applyEvent, Clock.bump]; split <;> rfl
    · rfl

/-- A cycle that serves no tick ends with the result of phase 1. -/
theorem State.phase2_of_not_serveTick {s : State} (h : s.serveTick = false) :
    s.phase2 = ⟨s.phase1.packedTime, s.phase1.hours, s.subTickCount, false⟩ := by
  simp [State.phase2, h]

/-- A cycle that serves a tick ends with the tick of the result of phase 1 (R134). -/
theorem State.phase2_of_serveTick {s : State} (h : s.serveTick = true) :
    s.phase2 = tick s.cfg.nTicks s.phase1.packedTime s.phase1.hours s.subTickCount := by
  simp [State.phase2, h]

/-- An advance is performed exactly when a served tick reaches the threshold (R135). -/
theorem State.phase2_refresh (s : State) :
    s.phase2.refresh = (s.serveTick && decide (s.cfg.nTicks ≤ s.subTickCount.toNat + 1)) := by
  cases h : s.serveTick
  · simp [State.phase2_of_not_serveTick h]
  · simp [State.phase2_of_serveTick h, tick_refresh]

/-- The invariant of the clock state is kept by the two phases (R137). -/
theorem State.phase2_keeps_valid {s : State} (hn : s.cfg.nTicksOk = true) (h : s.ClockInv) :
    validPT s.phase2.packedTime = true ∧ s.phase2.hours.toNat ≤ 99 ∧ s.phase2.subTickCount.toNat < s.cfg.nTicks := by
  obtain ⟨hp, hh, hs⟩ := h
  obtain ⟨a, b⟩ := applyEvent_keeps_valid (decodeEv9 s.event.ev) (c := s.clock) hp hh
  simp only [Params.nTicksOk, Bool.and_eq_true, decide_eq_true_eq] at hn
  cases ht : s.serveTick
  · rw [State.phase2_of_not_serveTick ht]; exact ⟨a, b, hs⟩
  · rw [State.phase2_of_serveTick ht]; exact tick_keeps_valid hn.1 hn.2 a b

end Sys2Proof.Machine
end

