-- ==== Sys2Proof/Laws/Display.lean ====
section
/-! SUPPORT. What the display projector can show, said once. -/

namespace Sys2Proof.Machine

/-- A digit of at most 9 shows its pattern. -/
theorem renderDigit_of_le (prior : BitVec 8) {d : Nat} (h : d ≤ 9) : renderDigit prior d = segmentPattern d := if_pos h

/-- A digit above 9 is rejected. -/
theorem renderDigit_of_gt (prior : BitVec 8) {d : Nat} (h : 9 < d) : renderDigit prior d = prior :=
  if_neg (Nat.not_le.mpr h)

/-- Quantities of at most 99 show all their digits, whatever was shown before (R153). -/
theorem render_of_le (prior : DigitPatterns) {h m s : Nat} (hh : h ≤ 99) (hm : m ≤ 99) (hs : s ≤ 99) :
    render prior h m s = ⟨segmentPattern (h / 10), segmentPattern (h % 10), segmentPattern (m / 10),
      segmentPattern (m % 10), segmentPattern (s / 10), segmentPattern (s % 10)⟩ := by
  simp only [render]
  iterate 6 rw [renderDigit_of_le _ (by omega)]

/-- A time whose digits are decimal is decoded without error. -/
theorem State.bcdErr_of_digitsOk {s : State} (h : digitsOk s.packedTime = true) : s.bcdErr = false := by
  simp [State.bcdErr, dec_of_digitsOk h]

/-- The minutes port of a valid time. -/
theorem State.decMin_of_validPT {s : State} (h : validPT s.packedTime = true) :
    s.decMin.toNat = minutesOf s.packedTime := by
  have := (fields_lt h).1
  simp only [State.decMin, dec_of_digitsOk (digitsOk_of_validPT h), BitVec.toNat_ofNat]
  omega

/-- The seconds port of a valid time. -/
theorem State.decSec_of_validPT {s : State} (h : validPT s.packedTime = true) :
    s.decSec.toNat = secondsOf s.packedTime := by
  have := (fields_lt h).2
  simp only [State.decSec, dec_of_digitsOk (digitsOk_of_validPT h), BitVec.toNat_ofNat]
  omega

end Sys2Proof.Machine
end

