-- ==== Sys2Proof/Laws/Host.lean ====
section
/-! SUPPORT. What the host's accesses read and write, said once. -/

namespace Sys2Proof.Machine

/-- The low part of a concatenation. -/
theorem extract_low_append {n m : Nat} (x : BitVec n) (y : BitVec m) : (x ++ y).extractLsb' 0 m = y := by
  apply BitVec.eq_of_toNat_eq
  rw [toNat_slice, toNat_append_add]
  simp [Nat.mod_eq_of_lt y.isLt]

/-- Bit 0 of a word whose used part is one bit. -/
theorem bit_zero_append {n : Nat} (x : BitVec n) (b : Bool) : (x ++ BitVec.ofBool b).getLsbD 0 = b := by
  rw [BitVec.getLsbD_append]
  simp

variable (s : State)

/-- The used bits of the Switch input register (R142). -/
theorem readReg_switches : (s.readReg .switches).extractLsb' 0 10 = s.swLvl := extract_low_append _ _

/-- The used bit of the Button data register (R143). -/
theorem readReg_buttonData : (s.readReg .buttonData).getLsbD 0 = s.btnLvl := bit_zero_append _ _

/-- The used bit of the Button edge-capture register (R144). -/
theorem readReg_buttonEdge : (s.readReg .buttonEdge).getLsbD 0 = s.btnCap := bit_zero_append _ _

/-- The used bit of the Timer status register (R146). -/
theorem readReg_timerStatus : (s.readReg .timerStatus).getLsbD 0 = s.tickPending := bit_zero_append _ _

variable (n : Neighbours)

/-- A write to a display changes that display alone, and nothing when there is none of that index (R149, R152). -/
theorem setDisplay_disp (k : Nat) (p : BitVec 8) (j : Nat) (h : j < 6) :
    (n.setDisplay k p).disp[j] = if j = k then p else n.disp[j] := by
  unfold Neighbours.setDisplay
  split
  · simp [Vector.getElem_set, eq_comm]
  · rw [if_neg]; omega

/-- A write to a display leaves the other neighbours. -/
theorem setDisplay_eq (k : Nat) (p : BitVec 8) : n.setDisplay k p = { n with disp := (n.setDisplay k p).disp } := by
  unfold Neighbours.setDisplay
  split <;> rfl

/-- A write to the low half of the period (R43, R190). -/
theorem setPeriod_low (d : BitVec 16) : (n.setPeriod .low d).period.extractLsb' 0 16 = d := extract_low_append _ _

/-- The low half is not written by a write to the high half (R43, R190). -/
theorem setPeriod_high_low (d : BitVec 16) :
    (n.setPeriod .high d).period.extractLsb' 0 16 = n.period.extractLsb' 0 16 :=
  (extract_low_append _ _).trans (extract_low_append _ _).symm

/-- The high half of the period is the high register (R43). -/
theorem period_high : n.period.extractLsb' 16 16 = n.periodHigh := by
  apply BitVec.eq_of_toNat_eq
  rw [toNat_slice, Neighbours.period, toNat_append_add]
  have := n.periodHigh.isLt
  have := n.periodLow.isLt
  omega

/-- A write to the high half of the period (R43, R190). -/
theorem setPeriod_high (d : BitVec 16) : (n.setPeriod .high d).period.extractLsb' 16 16 = d := period_high _

end Sys2Proof.Machine
end

