-- ==== Sys2Proof/Tests/Slice0.lean ====
section
/-! SUPPORT. The model's own tests: words written out from the spec's encodings, the checks of well-formedness, the
vectors of 95_test_vectors.md, and a witness for the hypotheses of every statement that has any. -/

namespace Sys2Proof.Tests

open Sys2Proof.Machine

/-! ### Helpers -/

/-- The next state's registers, if there is one. -/
def regs : Result → Option CoreRegs
  | .next s => some s.core
  | .fault _ => none
  | .refused _ => none

/-- A reading of the next state, if there is one. -/
def look {α : Type} (f : State → α) : Result → Option α
  | .next s => some (f s)
  | .fault _ => none
  | .refused _ => none

/-- Time, hours and counter: `pt=.. hrs=.. sub=..` of R71. -/
def time (s : State) : PT16 × Hours × SubTick := (s.packedTime, s.hours, s.subTickCount)

/-- A state in level-polled mode with a given clock and one cycle of inputs. -/
def level (pt : PT16) (hrs : Hours) (sub : SubTick) (i : Inputs) : State :=
  { State.reset with packedTime := pt, hours := hrs, subTickCount := sub, trace := [i] }

/-- The same in edge-triggered mode with a given dispatch mode, edge, samples and pending bits. -/
def edge (d : DispatchMode) (e : EdgeSel) (bl bc tp : Bool) (i : Inputs) : State :=
  { State.reset with
    cfg := { Params.default with dispatchMode := d, inputMode := .edge, edgeSel := e }
    packedTime := 0x0008, hours := 7, subTickCount := 9, btnLvl := bl, btnCap := bc, tickPending := tp
    trace := [i, i] }

/-- A dispatch cycle with the button line as given and the switch lines 0. -/
def disp (btn : Bool) : Inputs := Inputs.line btn 0 false true

/-- A cycle without dispatch. -/
def rest (btn : Bool) : Inputs := Inputs.line btn 0 false false

/-! ### Words of the encodings (R62 to R65, R73) -/

theorem test_decode_set_sec : decode (.ev9 0b001101010#9) = .ok (.setSec 42) := by decide
theorem test_decode_set_min : decode (.ev9 0b010000111#9) = .ok (.setMin 7) := by decide
theorem test_decode_set_hrs : decode (.ev9 0b011000101#9) = .ok (.setHrs 5) := by decide
theorem test_decode_bump : decode (.ev9 0b100000010#9) = .ok (.bump 2) := by decide
theorem test_decode_exit_ignores_payload : decode (.ev9 0b101010101#9) = .ok .exit := by decide
theorem test_decode_noop : decode (.ev9 0b000111111#9) = .ok .noop := by decide
theorem test_decode_reserved_kinds : decode (.ev9 0b110000001#9) = .ok .noop ∧ decode (.ev9 0b111000001#9) = .ok .noop := by
  decide
theorem test_decode_pending : decode (.pend2 0b10#2) = .ok .ack ∧ decode (.pend2 0b11#2) = .ok .ack ∧
    decode (.pend2 0b01#2) = .ok .tick ∧ decode (.pend2 0b00#2) = .ok .evtEdge := by decide
theorem test_decode_switch_words : decode (.sw10 0b0100101010#10 true 2) = .ok (.setSec 42) ∧
    decode (.sw10 0b1001000111#10 false 2) = .ok (.setMin 7) ∧ decode (.sw10 0b1100111111#10 false 2) = .ok (.setHrs 63) ∧
    decode (.sw10 0b1111111111#10 true 2) = .ok .exit ∧ decode (.sw10 0b0000111111#10 false 2) = .ok .noop ∧
    decode (.sw10 0b0001000000#10 true 2) = .ok (.bump 2) := by decide
theorem test_decode_reads : decode (.reg (.read .switches)) = .ok .rdSw ∧ decode (.reg (.read .buttonData)) = .ok .rdBtn ∧
    decode (.reg (.read .buttonEdge)) = .ok .rdEdge ∧ decode (.reg (.read .timerStatus)) = .ok .rdTstat := by decide
theorem test_decode_writes : decode (.reg (.write (.buttonEdge 1))) = .ok (.ackEdge 1) ∧
    decode (.reg (.write (.timerStatus 1))) = .ok (.ackTstat 1) ∧
    decode (.reg (.write (.display 5 0x1C0))) = .ok (.wrDisp 5 0xC0) ∧
    decode (.reg (.write (.led 0xFFF))) = .ok (.wrLed 0x3FF) ∧
    decode (.reg (.write (.timerPeriod .high 0x1004C))) = .ok (.wrTper .high 0x4C) ∧
    decode (.reg (.write (.timerControl ⟨true, true, true, false⟩))) = .ok (.wrTctrl ⟨true, true, true, false⟩) := by decide
theorem test_decode_unlisted : decode (.reg (.read .led)) = .error .unlistedRead ∧
    decode (.reg (.write (.switches 1))) = .error .unlistedWrite := by decide
theorem test_decode_ports : decode .portRst = .ok .reset ∧ decode .portTime = .ok .rdTime := by decide
theorem test_decode_invocations : decode (.fn (.inc 0x0959)) = .ok (.inc 0x0959) ∧
    decode (.fn (.dec 0x0742)) = .ok (.dec 0x0742) ∧ decode (.fn (.enc 7 42)) = .ok (.enc 7 42) ∧
    decode (.fn (.sample true 0x12A)) = .ok (.sample true 0x12A) ∧
    decode (.fn (.capture true false)) = .ok (.capture true false) ∧
    decode (.fn (.tcapture true false true)) = .ok (.tcapture true false true) ∧ decode (.fn .evtLevel) = .ok .evtLevel ∧
    decode (.fn .step) = .ok .step ∧ decode (.fn .advance) = .ok .advance ∧
    decode (.fn (.hourOvf true)) = .ok (.hourOvf true) := by decide
theorem test_table_words : decodeTableWord 8 2 = some .ack ∧ decodeTableWord 8 1 = some .tick ∧
    decodeTableWord 16 0x6A = some (.setSec 42) ∧ decodeTableWord 16 0x140 = some .exit ∧
    decodeTableWord 16 0x305 = some .evtLevel ∧ decodeTableWord 8 4 = none ∧ decodeTableWord 24 0 = none := by decide

/-! ### Well-formedness: an ill-formed term for each check -/

theorem test_wf_refuses_display_six : (Instr.wrDisp 6 0).wf = false := by decide
theorem test_wf_refuses_seed : ({ Params.default with seedPacked := 0x0060 } : Params).seedsOk = false := by decide
theorem test_wf_refuses_seed_hours : ({ Params.default with seedHours := 100 } : Params).seedsOk = false := by decide
theorem test_wf_refuses_zero_ticks : ({ Params.default with nTicks := 0 } : Params).nTicksOk = false := by decide
theorem test_wf_refuses_sixteen_ticks : ({ Params.default with nTicks := 16 } : Params).nTicksOk = false := by decide
theorem test_wf_refuses_overlapping_fields : ({ Params.default with exitBit := 5 } : Params).layoutOk = false ∧
    ({ Params.default with selLsb := 6 } : Params).layoutOk = false ∧
    ({ Params.default with selLsb := 9 } : Params).layoutOk = false := by decide
theorem test_wf_refuses_irq_with_level : ({ Params.default with dispatchMode := .irq } : Params).legal = false := by decide
theorem test_wf_accepts_default : Params.default.legal = true := by decide

/-! ### The codec (95_test_vectors.md 2.1 to 2.3) -/

theorem test_inc_carry : look (·.wires.inc) (exec (.inc 0x0959) State.reset) = some ⟨0x1000, true, false⟩ := by decide
theorem test_inc_full_wrap : look (·.wires.inc) (exec (.inc 0x5959) State.reset) = some ⟨0x0000, true, true⟩ := by decide
theorem test_dec : look (·.wires.dec) (exec (.dec 0x0742) State.reset) = some ⟨true, 7, 42⟩ := by decide
theorem test_dec_field_above_59 : look (·.wires.dec) (exec (.dec 0x0075) State.reset) = some ⟨true, 0, 75⟩ := by decide
theorem test_dec_fails : look (·.wires.dec.ok) (exec (.dec 0x00F0) State.reset) = some false := by decide
theorem test_enc_wraps : look (·.wires.enc) (exec (.enc 63 63) State.reset) = some 0x0303 := by decide
theorem test_enc_remainder : look (·.wires.enc) (exec (.enc 61 5) State.reset) = some 0x0105 := by decide

/-! ### The edge detector (95_test_vectors.md 2.4) -/

theorem test_sample : look (fun s => (s.btnLvl, s.swLvl)) (exec (.sample true 0x12A) State.reset) = some (true, 0x12A) := by
  decide
theorem test_capture_set_wins : look (·.btnCap) (exec (.capture true true) (edge .irq .any true true false (disp false))) =
    some true := by decide
theorem test_ack_clears : look (·.btnCap) (exec .ack (edge .irq .any true true false (disp true))) = some false := by decide
theorem test_ack_keeps_release : look (·.btnCap) (exec .ack (edge .irq .any true true false (disp false))) = some true := by
  decide
theorem test_tcapture_set_wins : look (·.tickPending)
    (exec (.tcapture true true false) (edge .irq .any true true true (disp true))) = some true := by decide
theorem test_evt_edge_pressed : look (fun s => (decodeEv9 s.wires.ev, s.wires.ackBtn, s.btnCap))
    (exec .evtEdge (edge .irq .any true true false (disp true))) = some (.bump 2, true, false) := by decide
theorem test_evt_edge_released : look (fun s => (decodeEv9 s.wires.ev, s.wires.ackBtn, s.btnCap))
    (exec .evtEdge (edge .irq .any false true false (disp false))) = some (.noop, true, false) := by decide
theorem test_evt_level_select_outranks_button : look (fun s => decodeEv9 s.wires.ev)
    (exec .evtLevel { level 0 0 0 (disp true) with swLvl := 0x12A, btnLvl := true }) = some (.setSec 42) := by decide
theorem test_evt_level_exit_outranks_all : look (fun s => decodeEv9 s.wires.ev)
    (exec .evtLevel { level 0 0 0 (disp true) with swLvl := 0x3FF, btnLvl := true }) = some .exit := by decide

/-! ### The clock state (95_test_vectors.md 2.5) -/

theorem test_noop : look time (exec .noop (level 0x1234 9 3 (disp false))) = some (0x1234, 9, 3) := by decide
theorem test_set_sec : look time (exec (.setSec 42) (level 0x1234 9 3 (disp false))) = some (0x1242, 9, 3) := by decide
theorem test_set_sec_wraps : look time (exec (.setSec 63) (level 0x1234 9 3 (disp false))) = some (0x1203, 9, 3) := by decide
theorem test_set_min : look time (exec (.setMin 42) (level 0x1234 9 3 (disp false))) = some (0x4234, 9, 3) := by decide
theorem test_set_min_wraps : look time (exec (.setMin 63) (level 0x1234 9 3 (disp false))) = some (0x0334, 9, 3) := by decide
theorem test_set_hrs : look time (exec (.setHrs 63) (level 0x1234 9 3 (disp false))) = some (0x1234, 63, 3) := by decide
theorem test_bump_crosses : look time (exec (.bump 2) (level 0x5959 0 3 (disp false))) = some (0x0001, 1, 3) := by decide
theorem test_bump_invalid : look time (exec (.bump 2) (level 0x000A 3 3 (disp false))) = some (0x000A, 3, 3) := by decide
theorem test_exit : look (·.halted) (exec .exit (level 0x1234 9 3 (disp false))) = some true := by decide
theorem test_tick_counts : look time (exec .tick (level 0x0000 9 4 (disp false))) = some (0x0000, 9, 5) := by decide
theorem test_tick_advances : look time (exec .tick (level 0x5959 99 9 (disp false))) = some (0x0000, 0, 0) := by decide
theorem test_advance : look time (exec .advance (level 0x5958 0 9 (disp false))) = some (0x5959, 0, 0) := by decide
theorem test_hour_ovf : look (·.hours) (exec (.hourOvf true) (level 0 99 0 (disp false))) = some 0 := by decide

/-! ### The cycle (programs P1 to P7), reset (2.7) -/

/-- P4, c0: SET_SEC 59 and then the advance of the result. -/
theorem test_step_event_then_tick : look (fun s => (time s, s.wires.refresh))
    (step { level 0x5930 41 9 (disp false) with tickPending := true, swLvl := 0x13B }) =
    some ((0x0000, 42, 0), true) := by decide

/-- P5, c0 in the interrupt variant: the button only. -/
theorem test_step_irq_button_first : look (fun s => (time s, s.tickPending, s.btnCap))
    (step (edge .irq .any true true true (disp true))) = some ((0x0010, 7, 9), true, false) := by decide

theorem test_reset : regs (exec .reset { level 0x1234 9 3 (disp true) with halted := true, btnCap := true }) =
    some ⟨0, 0, 0, false, false, false, false, 0⟩ := by decide

/-- `rst=1` with `tmo=1`: `tp=0` afterwards. -/
theorem test_reset_wins : look (·.tickPending)
    (step (level 0x1234 9 3 { disp true with rst := true, tmrTimeout := true })) = some false := by decide

/-- A table word placed before the machine is the operation of the next step. -/
theorem test_placed_words_run :
    look time (step (State.reset.withFetchWord 16 0x6A)) = some (0x0042, 0, 0) ∧
    look time (step (State.reset.withFetchWord 16 0x100)) = some (0x0000, 0, 0) ∧
    look time (step (State.reset.withFetchWord 16 0x102)) = some (0x0002, 0, 0) ∧
    look (·.halted) (step (State.reset.withFetchWord 16 0x140)) = some true ∧
    look time (step (State.reset.withFetchWord 8 1)) = some (0, 0, 1) ∧
    look (fun s => (s.btnCap, s.wires.ackBtn)) (step (State.reset.withFetchWord 8 2)) = some (false, true) := by decide

/-! ### The host (95_test_vectors.md 2.6) -/

theorem test_rd_sw : look (fun s => s.hostRead.extractLsb' 0 10) (exec .rdSw { State.reset with swLvl := 0x12A }) =
    some 0x12A := congrArg some (readReg_switches _)
theorem test_rd_btn : look (fun s => s.hostRead.getLsbD 0) (exec .rdBtn { State.reset with btnLvl := true }) =
    some true := congrArg some (readReg_buttonData _)
theorem test_rd_edge : look (fun s => (s.hostRead.getLsbD 0, s.btnCap))
    (exec .rdEdge { State.reset with btnCap := true }) = some (true, true) :=
  congrArg (fun b => some (b, true)) (readReg_buttonEdge _)
theorem test_rd_tstat : look (fun s => (s.hostRead.getLsbD 0, s.tickPending))
    (exec .rdTstat { State.reset with tickPending := true }) = some (true, true) :=
  congrArg (fun b => some (b, true)) (readReg_timerStatus _)
theorem test_ack_edge_one : look (·.btnCap) (exec (.ackEdge 1) (edge .irq .any false true false (rest false))) =
    some false := by decide
theorem test_ack_edge_zero : look (·.btnCap) (exec (.ackEdge 2) (edge .irq .any false true false (rest false))) =
    some true := by decide
theorem test_ack_tstat : look (·.tickPending) (exec (.ackTstat 1) (edge .irq .any false true true (rest false))) =
    some false := by decide
theorem test_wr_tctrl : look (·.ext.timerControl) (exec (.wrTctrl ⟨true, true, true, false⟩) State.reset) =
    some ⟨true, true, true, false⟩ := by decide
theorem test_wr_tper : look (·.ext.period) (exec (.wrTper .high 0x4C) State.reset) = some 0x004C0000 := by decide
theorem test_wr_disp : look (·.ext.disp.toList) (exec (.wrDisp 5 0xC0) State.reset) = some [0, 0, 0, 0, 0, 0xC0] := by decide
theorem test_wr_disp_ignored : look (·.ext.disp.toList) (exec (.wrDisp 6 0xC0) State.reset) = some [0, 0, 0, 0, 0, 0] := by
  decide
theorem test_wr_led : look (·.ext.led) (exec (.wrLed 0x3FF) State.reset) = some 0x3FF := by decide
theorem test_rd_time : look (·.timeRead) (exec .rdTime { State.reset with packedTime := 0x0742, hours := 5 }) =
    some ⟨5, 0x0742, 0, 7, 42, false, false⟩ := by decide

/-- A host's access in a cycle: the write reaches the LEDs while the core runs its cycle. -/
theorem test_step_host_write : look (fun s => (s.ext.led, s.subTickCount))
    (step { level 0 0 3 { disp false with host := some (.write (.led 0x2AA)) } with tickPending := true }) =
    some (0x2AA, 4) := by decide

/-! ### Witnesses: states and operands that meet the hypotheses of the statements -/

theorem witness_DecodeOfEncodeIsTheInstruction : (Instr.wrDisp 5 0xC0).wf = true ∧ (Instr.bump 63).wf = true := by decide

theorem witness_default_layout : Params.default.defaultLayout = true := by decide

/-- Valid words at both ends of the range, for the statements about INC and ENC. -/
theorem witness_valid_words : validPT 0x0000 = true ∧ validPT 0x5959 = true ∧ validPT 0x0959 = true := by decide

/-- LevelEventFollowsTheSwitchWord, a word for each of its cases. -/
theorem witness_LevelEventFollowsTheSwitchWord :
    let s := level 0 0 0 (disp false)
    s.cfg.defaultLayout = true ∧ ({ s with swLvl := 0x0BF } : State).swLvl =
        0#2 ++ BitVec.ofBool true ++ BitVec.ofBool false ++ 63#6 ∧
      (0x12A : SW10) = 1#2 ++ BitVec.ofBool false ++ BitVec.ofBool false ++ 42#6 ∧
      (0x247 : SW10) = 2#2 ++ BitVec.ofBool false ++ BitVec.ofBool true ++ 7#6 ∧
      (0x33F : SW10) = 3#2 ++ BitVec.ofBool false ++ BitVec.ofBool false ++ 63#6 ∧
      (0x000 : SW10) = 0#2 ++ BitVec.ofBool false ++ BitVec.ofBool false ++ 0#6 ∧
      s.inputs.dispatchEn = true ∧ s.halted = false ∧ (level 0 0 0 (rest false)).inputs.dispatchEn = false := by decide

/-- A legal layout that is not the default one, at the ends of the switch word, and one word for each row there. -/
theorem witness_LevelEventFollowsTheSwitchWord_layout :
    let c : Params := { Params.default with valLsb := 4, selLsb := 0, exitBit := 3 }
    c.layoutOk = true ∧ Params.default.layoutOk = true ∧ (∀ sel ∈ [0, 1, 2, 3],
      (0x3F0 + sel) / 2 ^ c.selLsb % 4 = sel ∧ (0x3F0 + sel) / 2 ^ c.valLsb % 64 = 63 ∧
        (0x3F0 + sel) / 2 ^ c.exitBit % 2 = 0) ∧ 0x008 / 2 ^ c.exitBit % 2 = 1 := by decide

theorem witness_SteadyLineGivesNoFurtherEvent :
    let s := edge .irq .any true false true (disp true)
    s.cfg.inputMode = .edge ∧ s.btnCap = false ∧ 1 < s.trace.length ∧
      ∀ i ∈ s.trace.take 2, i.rst = false ∧ i.btnRaw = s.btnLvl := by decide

theorem witness_OneCapturedEdgeGivesAtMostOneBump :
    let s := edge .irq .any true true false (disp true)
    s.cfg.inputMode = .edge ∧ s.inputs.rst = false ∧ s.inputs.dispatchEn = true ∧ s.halted = false ∧
      s.btnCap = true ∧ s.inputs.btnRaw = s.btnLvl := by decide

/-- A legal configuration that runs, for every statement that asks for one, with and without a reset. -/
theorem witness_running_cycle :
    let s := level 0x5930 41 9 (disp false)
    let r := level 0x5930 41 9 { disp false with rst := true }
    s.cfg.refusedPair = false ∧ s.inputs.rst = false ∧ s.active = true ∧ r.cfg.refusedPair = false ∧
      r.inputs.rst = true := by decide

/-- Both clauses of ACycleRunsTheDecodedEventThenTheTick, in level mode and in edge mode: a tick that is served, one that
waits for the button, one that the exit keeps waiting, and no tick. -/
theorem witness_ACycleRunsTheDecodedEventThenTheTick :
    let s := { level 0x5930 41 9 (disp false) with tickPending := true, swLvl := 0x13B }
    let w := edge .irq .any true true true (disp true)
    let x := { level 0x5930 41 9 (disp false) with tickPending := true, swLvl := 0x080 }
    let n := edge .poll .any true true false (disp true)
    (∀ y ∈ [s, w, x, n], y.cfg.refusedPair = false ∧ y.inputs.rst = false ∧ y.inputs.dispatchEn = true ∧
      y.halted = false) ∧
      s.tickPending = true ∧ s.cfg.dispatchMode = .poll ∧ look (·.halted) (exec (.setSec 59) s) = some false ∧
      w.tickPending = true ∧ w.cfg.dispatchMode = .irq ∧ w.btnCap = true ∧
      look (fun u => decodeEv9 u.wires.ev) (exec .evtLevel x) = some .exit ∧ x.tickPending = true ∧
      n.tickPending = false := by decide

/-- Both clauses of InactiveCycleHoldsTheClockState. -/
theorem witness_InactiveCycleHoldsTheClockState :
    let s := level 0x5930 41 9 (rest false)
    let t := { level 0x5930 41 9 (disp false) with halted := true }
    s.cfg.refusedPair = false ∧ s.inputs.rst = false ∧ s.inputs.dispatchEn = false ∧
      t.cfg.refusedPair = false ∧ t.inputs.rst = false ∧ t.halted = true := by decide

theorem witness_InterruptDispatchServesTheButtonFirst :
    let s := edge .irq .any true true true (disp true)
    s.cfg.dispatchMode = .irq ∧ s.cfg.inputMode = .edge ∧ s.inputs.rst = false ∧ s.btnCap = true ∧
      s.tickPending = true ∧ s.hostAckTick = false := by decide

theorem witness_BothDispatchModesReachTheSameState :
    let s := edge .irq .any true true true (disp true)
    s.cfg.dispatchMode = .irq ∧ s.cfg.inputMode = .edge ∧ s.halted = false ∧ s.btnCap = true ∧ s.tickPending = true ∧
      s.trace = [disp true, disp true] ∧ (disp true).rst = false ∧ (disp true).dispatchEn = true ∧
      (disp true).btnRaw = s.btnLvl ∧ (disp true).tmrTimeout = false ∧ (disp true).hostAckBtn = false ∧
      (disp true).hostAckTick = false ∧ (disp true).host = none := by decide

/-- The refused configuration, and one that is not refused. -/
theorem witness_OnlyTheRefusedConfigurationStops : Instr.tick ≠ .step ∧
    let s := { State.reset with cfg := { Params.default with dispatchMode := .irq } }
    (s.cfg.dispatchMode = .irq ∧ s.cfg.inputMode = .level) ∧
      ¬(State.reset.cfg.dispatchMode = .irq ∧ State.reset.cfg.inputMode = .level) := by decide

theorem witness_ButtonHeldAtResetIsCaptured :
    Params.default.refusedPair = false ∧ (rest true).rst = false ∧ (rest true).btnRaw = true := by decide

/-- A core that is not halted, for the statements about events and ticks. -/
theorem witness_not_halted : (level 0x1234 9 3 (disp false)).halted = false := by decide

/-- Both clauses of BumpAddsSecondsAndCarriesHours. -/
theorem witness_BumpAddsSecondsAndCarriesHours :
    (level 0x5959 0 3 (disp false)).halted = false ∧ (dec (level 0x5959 0 3 (disp false)).packedTime).ok = true ∧
      (dec (level 0x000A 3 3 (disp false)).packedTime).ok = false := by decide

theorem witness_BumpIsIteratedAdvance :
    let c : Clock := ⟨0x5959, 99, false⟩
    validPT c.packedTime = true ∧ c.hours.toNat ≤ 99 := by decide

/-- Both clauses of HaltedIsSetByExitAndClearedByReset: a halted core that goes on, and one that halts. -/
theorem witness_HaltedIsSetByExitAndClearedByReset :
    let s := { level 0x1234 9 3 (disp false) with halted := true }
    exec .tick s = .next s ∧ s.halted = true ∧ Instr.tick ≠ .reset ∧ ¬(Instr.tick = .step ∧ s.inputs.rst = true) ∧
      exec .exit (level 0x1234 9 3 (disp false)) = .next s ∧ (level 0x1234 9 3 (disp false)).halted = false ∧
      exec .reset s = .next s.applyReset ∧ s.applyReset.halted = false :=
  ⟨rfl, rfl, by decide, by decide, rfl, rfl, rfl, rfl⟩

theorem witness_HaltIsForeverWithoutReset :
    let s := { level 0x1234 9 3 (disp false) with halted := true }
    s.cfg.refusedPair = false ∧ s.halted = true ∧ 1 ≤ s.trace.length ∧ ∀ i ∈ s.trace.take 1, i.rst = false := by decide

theorem witness_ExitLeavesThePendingTickUnserved :
    let s := { level 0x5959 9 9 (disp false) with tickPending := true, swLvl := 0x080 }
    s.cfg.refusedPair = false ∧ s.inputs.rst = false ∧ s.inputs.dispatchEn = true ∧ s.halted = false ∧
      decode (.ev9 s.event.ev) = .ok .exit ∧ s.tickPending = true ∧ s.hostAckTick = false := by decide

/-- Both clauses of TickCountsOrAdvances, where they meet. -/
theorem witness_TickCountsOrAdvances :
    let s := level 0x5959 99 8 (disp false)
    let t := level 0x5959 99 9 (disp false)
    s.halted = false ∧ s.cfg.nTicksOk = true ∧ s.subTickCount.toNat + 1 < s.cfg.nTicks ∧
      t.halted = false ∧ t.cfg.nTicksOk = true ∧ t.cfg.nTicks ≤ t.subTickCount.toNat + 1 ∧
      validPT t.packedTime = true := by decide

/-- Both clauses of AdvanceCarriesIntoTheHours. -/
theorem witness_AdvanceCarriesIntoTheHours :
    let s := level 0x5959 99 9 (disp false)
    let t := level 0x5958 99 9 (disp false)
    s.halted = false ∧ validPT s.packedTime = true ∧ s.packedTime = 0x5959#16 ∧ t.halted = false ∧
      validPT t.packedTime = true ∧ t.packedTime ≠ 0x5959#16 := by decide

theorem witness_HourCarryWrapsAt100 :
    (level 0 99 0 (disp false)).halted = false ∧ (level 0 99 0 (disp false)).hours = 99 := by decide

/-- A cycle that advances: the hypothesis of RefreshMarksExactlyTheAdvances. -/
theorem witness_RefreshMarksExactlyTheAdvances :
    let s := { level 0x1234 9 9 (disp false) with tickPending := true }
    look (·.wires.refresh) (exec .step s) = some true ∧ s.serveTick = true := by decide

theorem witness_ZeroTimeDoesNotFireTheHourCarry :
    (level 0x0000 9 4 (disp false)).halted = false ∧ (level 0x0000 9 4 (disp false)).packedTime = 0x0000#16 := by decide

/-- A state that meets the invariant and a step from it. -/
theorem witness_good_state :
    let s := { level 0x5959 99 9 (disp false) with tickPending := true }
    s.Inv ∧ s.inputs.rst = false ∧ look time (step s) = some (0x0000, 0, 0) :=
  ⟨⟨by decide, by decide, by decide, by decide⟩, by decide, by decide⟩

/-- The three causes of OnlyThreeThingsChangeTheHours: SET_HRS, a BUMP that lands on the boundary, the advance. -/
theorem witness_OnlyThreeThingsChangeTheHours :
    let s := { level 0x1234 9 3 (disp false) with swLvl := 0x305 }
    let t := { level 0x5958 9 3 (disp false) with btnLvl := true }
    let u := { level 0x5959 9 9 (disp false) with tickPending := true }
    s.Inv ∧ t.Inv ∧ u.Inv ∧ s.inputs.rst = false ∧ t.inputs.rst = false ∧ u.inputs.rst = false ∧
      look (·.hours) (step s) = some 5 ∧ look (·.hours) (step t) = some 10 ∧ look (·.hours) (step u) = some 10 :=
  ⟨⟨by decide, by decide, by decide, by decide⟩, ⟨by decide, by decide, by decide, by decide⟩,
    ⟨by decide, by decide, by decide, by decide⟩, by decide, by decide, by decide, by decide, by decide, by decide⟩

theorem witness_legal_parameters : Params.default.legal = true ∧
    ({ Params.default with dispatchMode := .irq, inputMode := .edge, seedPacked := 0x5959, seedHours := 99 } : Params).legal
      = true := by decide

/-- An operation that changes the counter: the hypotheses of NoEventTouchesTheTickCounter. -/
theorem witness_NoEventTouchesTheTickCounter :
    look (·.subTickCount) (exec .tick (level 0x0000 9 4 (disp false))) = some 5 ∧
      (level 0x0000 9 4 (disp false)).subTickCount = 4 := by decide

/-- Two host behaviours of one cycle, both with a next state. -/
theorem witness_HostCannotWriteTheClockStateWithinTheCycle :
    let i := disp false
    let j := { disp false with hostAckBtn := true, hostAckTick := true, host := some (.write (.timerStatus 1)), rdTime := true }
    j = { i with hostAckBtn := j.hostAckBtn, hostAckTick := j.hostAckTick, host := j.host, rdTime := j.rdTime } ∧
      look time (step { State.reset with trace := [i] }) = some (0, 0, 0) ∧
      look time (step { State.reset with trace := [j] }) = some (0, 0, 0) := by decide

/-- Two states that differ in what the core does not read, both with a next state. -/
theorem witness_OnlyRegistersParametersAndInputsMatter :
    let s := level 0x1234 9 3 (disp false)
    look time (step s) = some (0x1234, 9, 3) ∧
      look time (step { s with ext := { s.ext with led := 5 }, hostRead := 7,
                               cfg := { s.cfg with featureMode := .demo } }) = some (0x1234, 9, 3) := by decide

/-- Both kinds of cycle that are no dispatch. -/
theorem witness_TimeoutsOutsideADispatchMerge :
    let s := { level 0 0 3 { rest false with tmrTimeout := true } with tickPending := true }
    let t := { level 0 0 3 { disp false with tmrTimeout := true } with tickPending := true, halted := true }
    s.cfg.refusedPair = false ∧ s.inputs.rst = false ∧ s.inputs.tmrTimeout = true ∧ s.tickPending = true ∧
      s.inputs.dispatchEn = false ∧ t.cfg.refusedPair = false ∧ t.inputs.rst = false ∧
      t.inputs.tmrTimeout = true ∧ t.tickPending = true ∧ t.halted = true ∧ t.inputs.dispatchEn = true := by decide

/-- A listed access and an unlisted one. -/
theorem witness_ACycleRunsTheHostsDecodedAccess :
    State.reset.cfg.refusedPair = false ∧ decode (.reg (.write (.led 5))) = .ok (.wrLed 5) ∧
      look (·.ext.led) (exec (.wrLed 5) State.reset) = some 5 ∧
      decode (.reg (.read .timerControl)) = .error .unlistedRead := by decide

/-- A cycle for both writes, and the timer's bit cleared by one. -/
theorem witness_HostAcknowledgeActsAtTheEdge :
    State.reset.cfg.refusedPair = false ∧ (rest false).rst = false ∧ (rest false).dispatchEn = false ∧
      look (·.tickPending) (step { State.reset with
        tickPending := true, trace := [{ rest false with host := some (.write (.timerStatus 1)) }] }) = some false := by
  decide

/-- 43_register_ops.md R149 and 60_exceptions.md R153: digit 10 is rejected, digits 0 and 9 are shown. -/
theorem test_render : (render ⟨1, 2, 3, 4, 5, 6⟩ 100 9 90) = ⟨1, 0xC0, 0xC0, 0x90, 0x90, 0xC0⟩ := by
  have h : segmentPattern 0 = 0xC0 ∧ segmentPattern 9 = 0x90 := by decide
  simp [render, renderDigit, h]

/-- Quantities at both ends of the range, a state of the invariant, and a time that does not decode. -/
theorem witness_RenderShowsTheDigitsAndRejectsThoseAboveNine :
    (0 ≤ 99 ∧ 99 ≤ 99) ∧ (level 0x5959 99 9 (disp false)).Inv ∧ (dec (level 0x00F0 3 3 (disp false)).packedTime).ok = false :=
  ⟨by decide, ⟨by decide, by decide, by decide, by decide⟩, by decide⟩

/-- The clauses of HostAcknowledgesByWritingOne. -/
theorem witness_HostAcknowledgesByWritingOne : (1#32).getLsbD 0 = true ∧ (0xFFFFFFFE#32).getLsbD 0 = false := by decide

end Sys2Proof.Tests
end

/-! PROOFS. The scope of the machine (00_scope.md): where it stops, and that a good state never does. -/

namespace Sys2Proof

/-- The configuration D22 refuses is the pair of modes (`IRQ`, `LEVEL`). -/
theorem Params.refusedPair_eq_true_iff (c : Params) :
    c.refusedPair = true ↔ c.dispatchMode = .irq ∧ c.inputMode = .level := by
  simp [Params.refusedPair]

/-- The four parts of a legal configuration. -/
theorem Params.legal_iff (c : Params) :
    c.legal = true ↔ c.refusedPair = false ∧ c.seedsOk = true ∧ c.nTicksOk = true ∧ c.layoutOk = true := by
  simp [Params.legal, and_assoc]

/-- The bounds of `N_TICKS` (R7). -/
theorem Params.nTicksOk_iff (c : Params) : c.nTicksOk = true ↔ 1 ≤ c.nTicks ∧ c.nTicks ≤ 15 := by
  simp [Params.nTicksOk]

/-- What R34 asks of the seeds. -/
theorem Params.seedsOk_iff (c : Params) :
    c.seedsOk = true ↔ validPT c.seedPacked = true ∧ c.seedHours.toNat ≤ 99 := by
  simp [Params.seedsOk]

end Sys2Proof

namespace Sys2Proof.Machine

/-! ### The operations that read the halt flag (R25) -/

/-- A halted core ignores TICK. -/
theorem execTick_of_halted {s : State} (h : s.halted = true) : execTick s = .next s := if_pos h

/-- TICK of a running core (R130). -/
theorem execTick_of_running {s : State} (h : s.halted = false) :
    execTick s = .next
      (((s.applyTick (tick s.cfg.nTicks s.packedTime s.hours s.subTickCount)).driveAckTick).ackTimer true) :=
  if_neg (Bool.eq_false_iff.mp h)

/-- A halted core ignores ADVANCE. -/
theorem execAdvance_of_halted {s : State} (h : s.halted = true) : execAdvance s = .next s := if_pos h

/-- ADVANCE of a running core (R131). -/
theorem execAdvance_of_running {s : State} (h : s.halted = false) :
    execAdvance s = .next (s.applyTick (advance s.packedTime s.hours)) :=
  if_neg (Bool.eq_false_iff.mp h)

/-- A halted core ignores HOUR_OVF. -/
theorem execHourOvf_of_halted {s : State} (ovf : Bool) (h : s.halted = true) : execHourOvf ovf s = .next s := if_pos h

/-- HOUR_OVF of a running core (R132). -/
theorem execHourOvf_of_running {s : State} (ovf : Bool) (h : s.halted = false) :
    execHourOvf ovf s = .next (s.setTime s.packedTime (hourCarry s.hours ovf)) :=
  if_neg (Bool.eq_false_iff.mp h)

/-! ### Where the machine stops -/

/-- STEP is the one operation with a refusal; the three that read the halt flag answer a next state either way. -/
theorem exists_exec_next_of_ne_step {i : Instr} (s : State) (hi : i ≠ .step) : ∃ t, exec i s = .next t := by
  cases i with
  | step => exact absurd rfl hi
  | tick =>
    cases h : s.halted
    · exact ⟨_, execTick_of_running h⟩
    · exact ⟨_, execTick_of_halted h⟩
  | advance =>
    cases h : s.halted
    · exact ⟨_, execAdvance_of_running h⟩
    · exact ⟨_, execAdvance_of_halted h⟩
  | hourOvf ovf =>
    cases h : s.halted
    · exact ⟨_, execHourOvf_of_running ovf h⟩
    · exact ⟨_, execHourOvf_of_halted ovf h⟩
  | _ => exact ⟨_, rfl⟩

/-- STEP in the refused configuration (R7, U8). -/
theorem execStep_refused {s : State} (hc : s.cfg.refusedPair = true) : execStep s = .refused .irqWithLevel := if_pos hc

/-- STEP answers a next state in every other configuration. -/
theorem exists_execStep_next {s : State} (hc : s.cfg.refusedPair = false) : ∃ t, execStep s = .next t := by
  cases hr : s.inputs.rst
  · exact ⟨_, execStep_run s hc hr⟩
  · exact ⟨_, execStep_reset s hc hr⟩

/-- The machine makes a step in every configuration but the refused one. -/
theorem exists_step_next {s : State} (hc : s.cfg.refusedPair = false) : ∃ t, step s = .next t := by
  cases hr : s.inputs.rst
  · exact ⟨_, step_run s hc hr⟩
  · exact ⟨_, step_reset s hc hr⟩

/-- Settles O25: exec by the operation's arm, STEP and step by the pair of modes. -/
theorem onlyTheRefusedConfigurationStops : Obligations.OnlyTheRefusedConfigurationStops := by
  refine ⟨fun i s hi => exists_exec_next_of_ne_step s hi, fun s => ⟨fun hm => ?_, fun hm => ?_⟩⟩
  · have hc : s.cfg.refusedPair = true := s.cfg.refusedPair_eq_true_iff.mpr hm
    exact ⟨step_refused s hc, execStep_refused hc⟩
  · have hc : s.cfg.refusedPair = false :=
      Bool.eq_false_iff.mpr fun h => hm (s.cfg.refusedPair_eq_true_iff.mp h)
    exact ⟨exists_step_next hc, exists_execStep_next hc⟩

/-! ### What keeps the invariant (R24, R137) -/

/-- The host's accesses of a cycle touch nothing the invariant speaks of. -/
@[simp] theorem State.hostPhase_inv (s : State) : s.hostPhase.Inv ↔ s.Inv := Iff.rfl

/-- Nor does the end of the cycle. -/
@[simp] theorem State.nextCycle_inv (s : State) : s.nextCycle.Inv ↔ s.Inv := Iff.rfl

/-- Under a legal configuration RESET reaches the invariant from every state: the seeds meet it (R34), and the counter
is 0, below an `N_TICKS` of at least 1. -/
theorem State.applyReset_inv {s : State} (hc : s.cfg.legal = true) : s.applyReset.Inv := by
  obtain ⟨-, hseeds, hticks, -⟩ := s.cfg.legal_iff.mp hc
  obtain ⟨hpacked, hhours⟩ := s.cfg.seedsOk_iff.mp hseeds
  exact ⟨hc, hpacked, hhours, (s.cfg.nTicksOk_iff.mp hticks).1⟩

/-- A cycle without reset keeps the invariant. -/
theorem State.runCycle_inv {s : State} (h : s.Inv) : s.runCycle.Inv := by
  obtain ⟨hc, hclock⟩ := h
  obtain ⟨-, -, hticks, -⟩ := s.cfg.legal_iff.mp hc
  exact ⟨hc, State.phase2_keeps_valid hticks hclock⟩

/-- Every step of the machine keeps the invariant. -/
theorem step_keeps_inv {s t : State} (h : s.Inv) (hstep : step s = .next t) : t.Inv := by
  obtain ⟨-, ⟨-, rfl⟩ | ⟨-, rfl⟩⟩ := step_next hstep
  · exact (State.nextCycle_inv _).mpr (State.applyReset_inv h.1)
  · exact (State.nextCycle_inv _).mpr (State.runCycle_inv ((State.hostPhase_inv s).mpr h))

/-- A state that meets the invariant makes a step, to a state that meets it. -/
theorem exists_step_inv {s : State} (h : s.Inv) : ∃ t, step s = .next t ∧ t.Inv := by
  obtain ⟨hallowed, -⟩ := s.cfg.legal_iff.mp h.1
  obtain ⟨t, hstep⟩ := exists_step_next hallowed
  exact ⟨t, hstep, step_keeps_inv h hstep⟩

/-! ### Runs -/

@[simp] theorem core_run_zero (s : State) : core.run 0 s = .next s := rfl

/-- A run goes on from the state after its first step. -/
theorem core_run_succ {s t : State} (k : Nat) (h : step s = .next t) : core.run (k + 1) s = core.run k t := by
  have hcore : core.step s = .next t := h
  simp only [Host.Core.run, hcore]

/-- The induction over runs, once: from a predicate under which a step is made to a state that has it too, every number
of cycles ends in such a state. -/
theorem exists_run_of_step {P : State → Prop} (hP : ∀ s, P s → ∃ t, step s = .next t ∧ P t) (k : Nat)
    {s : State} (hs : P s) : ∃ t : State, core.run k s = .next t ∧ P t := by
  induction k generalizing s with
  | zero => exact ⟨s, core_run_zero s, hs⟩
  | succ k ih =>
    obtain ⟨u, hstep, hu⟩ := hP s hs
    obtain ⟨t, hrun, ht⟩ := ih hu
    exact ⟨t, (core_run_succ k hstep).trans hrun, ht⟩

/-- Settles O46: the invariant gives a step and is kept by it, so it goes along every run. -/
theorem goodStatesRunForeverAndStayGood : Obligations.GoodStatesRunForeverAndStayGood :=
  fun _ hs k => exists_run_of_step (fun _ h => exists_step_inv h) k hs

end Sys2Proof.Machine


/-! PROOFS. The registers of the core (10_state.md): which operation writes which, the halt flag, the invariant, and
that nothing outside the registers, the parameters and the inputs matters. -/

namespace Sys2Proof.Machine

/-! ### The invariant (R24, R137) -/

/-- Settles O44: RESET reaches the invariant from every state, and both phases of a running cycle keep it. -/
theorem everyCycleKeepsTheClockInvariant : Obligations.EveryCycleKeepsTheClockInvariant :=
  fun _ _ => step_keeps_inv

/-- RESET of the machine right after reset changes nothing the invariant speaks of. -/
theorem State.applyReset_resetWith_inv (c : Params) : (State.resetWith c).applyReset.Inv ↔ (State.resetWith c).Inv :=
  Iff.rfl

/-- Settles O45: the state after reset is as good as the result of RESET under the same parameters. -/
theorem resetStateMeetsTheInvariant : Obligations.ResetStateMeetsTheInvariant := by
  have hreset (c : Params) (hc : c.legal = true) : (State.resetWith c).Inv :=
    (State.applyReset_resetWith_inv c).mp (State.applyReset_inv hc)
  exact ⟨hreset, hreset .default (by decide)⟩

/-! ### An event alone -/

/-- A halted core ignores every event (R25). -/
theorem State.mapClock_of_halted {s : State} (f : Clock → Clock) (h : s.halted = true) : s.mapClock f = s := if_pos h

/-- An event of a running core (R122). -/
theorem State.mapClock_of_running {s : State} (f : Clock → Clock) (h : s.halted = false) :
    s.mapClock f = (s.setTime (f s.clock).packedTime (f s.clock).hours).setHalted (f s.clock).halted :=
  if_neg (Bool.eq_false_iff.mp h)

/-- No event touches the counter (D19). -/
@[simp] theorem State.mapClock_subTickCount (s : State) (f : Clock → Clock) :
    (s.mapClock f).subTickCount = s.subTickCount := by
  cases h : s.halted
  · rw [State.mapClock_of_running f h]; rfl
  · rw [State.mapClock_of_halted f h]

/-- After an event the core is halted exactly when it was, or the event is EXIT (R129). -/
theorem State.mapClock_applyEvent_halted (s : State) (e : Event) :
    (s.mapClock (applyEvent e)).halted = true ↔ e = .exit ∨ s.halted = true := by
  cases h : s.halted
  · rw [State.mapClock_of_running _ h, State.setHalted_halted, applyEvent_halted]
    simp only [State.clock, h]
  · rw [State.mapClock_of_halted _ h]; simp [h]

/-- An event's operation, performed alone, is `apply` of R122 on the clock state of a running core. -/
theorem exec_toInstr (e : Event) (s : State) : exec e.toInstr s = .next (s.mapClock (applyEvent e)) := by
  cases e with
  | noop =>
    cases h : s.halted
    · rw [State.mapClock_of_running _ h]; rfl
    · rw [State.mapClock_of_halted _ h]; rfl
  | _ => rfl

/-! ### What leaves the clock state alone -/

@[simp] theorem State.ackCapture_clock (s : State) (a : Bool) : (s.ackCapture a).clock = s.clock := by
  cases a <;> rfl
@[simp] theorem State.ackCapture_subTickCount (s : State) (a : Bool) :
    (s.ackCapture a).subTickCount = s.subTickCount := by
  cases a <;> rfl
@[simp] theorem State.ackTimer_clock (s : State) (a : Bool) : (s.ackTimer a).clock = s.clock := by
  cases a <;> rfl
@[simp] theorem State.ackTimer_subTickCount (s : State) (a : Bool) :
    (s.ackTimer a).subTickCount = s.subTickCount := by
  cases a <;> rfl
@[simp] theorem State.driveEvent_clock (s : State) (e : EventOut) : (s.driveEvent e).clock = s.clock := rfl
@[simp] theorem State.driveEvent_subTickCount (s : State) (e : EventOut) :
    (s.driveEvent e).subTickCount = s.subTickCount := rfl

/-- A tick or an advance never writes the halt flag. -/
@[simp] theorem State.applyTick_halted (s : State) (o : TickOut) : (s.applyTick o).halted = s.halted := rfl

/-- TICK never writes the halt flag. -/
theorem State.applyTick_driveAckTick_ackTimer_halted (s : State) (o : TickOut) :
    (((s.applyTick o).driveAckTick).ackTimer true).halted = s.halted := rfl

/-! ### What each operation does to the clock state -/

/-- What operation `i`, performed in `s`, can do to the clock state when it answers `t`: the seven ways by which
it may be written, with the whole next state, and an answer that writes none of it. -/
inductive ClockEffect (s : State) : Instr → State → Prop where
  | resetAlone : ClockEffect s .reset s.applyReset
  | resetCycle (hr : s.inputs.rst = true) : ClockEffect s .step s.applyReset
  | runCycle (hr : s.inputs.rst = false) : ClockEffect s .step s.runCycle
  | event (e : Event) : ClockEffect s e.toInstr (s.mapClock (applyEvent e))
  | tick (hrun : s.halted = false) : ClockEffect s .tick
      (((s.applyTick (tick s.cfg.nTicks s.packedTime s.hours s.subTickCount)).driveAckTick).ackTimer true)
  | advance (hrun : s.halted = false) : ClockEffect s .advance (s.applyTick (advance s.packedTime s.hours))
  | hourOvf (ovf : Bool) (hrun : s.halted = false) :
      ClockEffect s (.hourOvf ovf) (s.setTime s.packedTime (hourCarry s.hours ovf))
  | hold {i : Instr} {t : State} (hclock : t.clock = s.clock) (hsub : t.subTickCount = s.subTickCount) :
      ClockEffect s i t

/-- An operation answers one state only. -/
theorem ClockEffect.of_answer {i : Instr} {s t u : State} (hu : exec i s = .next u) (heffect : ClockEffect s i u)
    (ht : exec i s = .next t) : ClockEffect s i t :=
  Host.Outcome.next.inj (hu.symm.trans ht) ▸ heffect

/-- Every answer of an operation is one of these effects. -/
theorem exec_clockEffect {i : Instr} {s t : State} (h : exec i s = .next t) : ClockEffect s i t := by
  cases i with
  | reset => exact .of_answer rfl .resetAlone h
  | step =>
    obtain ⟨-, ⟨hr, rfl⟩ | ⟨hr, rfl⟩⟩ := execStep_next h
    · exact .resetCycle hr
    · exact .runCycle hr
  | noop => exact .of_answer (exec_toInstr .noop s) (.event .noop) h
  | setSec v => exact .of_answer (exec_toInstr (.setSec v) s) (.event (.setSec v)) h
  | setMin v => exact .of_answer (exec_toInstr (.setMin v) s) (.event (.setMin v)) h
  | setHrs v => exact .of_answer (exec_toInstr (.setHrs v) s) (.event (.setHrs v)) h
  | bump n => exact .of_answer (exec_toInstr (.bump n) s) (.event (.bump n)) h
  | exit => exact .of_answer (exec_toInstr .exit s) (.event .exit) h
  | tick =>
    cases hh : s.halted
    · exact .of_answer (execTick_of_running hh) (.tick hh) h
    · exact .of_answer (execTick_of_halted hh) (.hold rfl rfl) h
  | advance =>
    cases hh : s.halted
    · exact .of_answer (execAdvance_of_running hh) (.advance hh) h
    · exact .of_answer (execAdvance_of_halted hh) (.hold rfl rfl) h
  | hourOvf ovf =>
    cases hh : s.halted
    · exact .of_answer (execHourOvf_of_running ovf hh) (.hourOvf ovf hh) h
    · exact .of_answer (execHourOvf_of_halted ovf hh) (.hold rfl rfl) h
  | ack => exact .of_answer rfl (.hold (s.ackCapture_clock _) (s.ackCapture_subTickCount _)) h
  | ackEdge d => exact .of_answer rfl (.hold (s.ackCapture_clock _) (s.ackCapture_subTickCount _)) h
  | ackTstat d => exact .of_answer rfl (.hold (s.ackTimer_clock _) (s.ackTimer_subTickCount _)) h
  | evtEdge => exact .of_answer rfl (.hold (by simp) (by simp)) h
  | _ => exact .of_answer rfl (.hold rfl rfl) h

/-! ### The sub-second counter (R23) -/

/-- A cycle that serves no tick leaves the counter. -/
theorem State.runCycle_subTickCount_of_not_serveTick {s : State} (h : s.serveTick = false) :
    s.runCycle.subTickCount = s.subTickCount := by
  rw [State.runCycle_subTickCount, State.phase2_of_not_serveTick h]

/-- Settles O48, by what each operation does to the clock state. -/
theorem noEventTouchesTheTickCounter : Obligations.NoEventTouchesTheTickCounter := by
  intro i s t h hne
  cases exec_clockEffect h with
  | tick hrun => exact .inl rfl
  | advance hrun => exact .inr (.inl rfl)
  | resetAlone => exact .inr (.inr (.inl rfl))
  | resetCycle hr => exact .inr (.inr (.inr ⟨rfl, .inl hr⟩))
  | runCycle hr =>
    refine .inr (.inr (.inr ⟨rfl, .inr ?_⟩))
    by_contra hserve
    exact hne (State.runCycle_subTickCount_of_not_serveTick (Bool.eq_false_iff.mpr hserve))
  | event e => exact absurd (s.mapClock_subTickCount _) hne
  | hourOvf ovf hrun => exact absurd rfl hne
  | hold hclock hsub => exact absurd hsub hne

/-! ### The halt flag (R25) -/

/-- A word selects EXIT exactly when it carries the event EXIT. -/
theorem decode_ev9_eq_exit_iff (w : EV9) : decode (.ev9 w) = .ok .exit ↔ decodeEv9 w = .exit := by
  constructor
  · intro h
    exact Event.toInstr_inj (f := .exit) (Except.ok.inj h)
  · intro h
    rw [decode, h]; rfl

/-- A halted core performs no dispatch (R12). -/
theorem State.active_of_halted {s : State} (h : s.halted = true) : s.active = false := by
  simp [State.active, h]

/-- After a cycle the core is halted exactly when it was, or the event of the cycle is EXIT. -/
theorem State.runCycle_halted_iff (s : State) :
    s.runCycle.halted = true ↔ decodeEv9 s.event.ev = .exit ∨ s.halted = true :=
  applyEvent_halted _ _

/-- A cycle that is no dispatch holds the clock state. -/
theorem State.runCycle_clock_of_inactive {s : State} (h : s.active = false) : s.runCycle.clock = s.clock := by
  simp [State.clock, State.phase2_of_not_serveTick (State.serveTick_of_inactive h), State.phase1_of_inactive h]

/-- A halted core holds its clock state under everything but a reset. -/
theorem exec_keeps_clock_of_halted {i : Instr} {s t : State} (h : exec i s = .next t) (hh : s.halted = true)
    (halone : i ≠ .reset) (hcycle : ¬(i = .step ∧ s.inputs.rst = true)) :
    t.clock = s.clock ∧ t.subTickCount = s.subTickCount := by
  have hrunning (hrun : s.halted = false) : False := by simp [hh] at hrun
  cases exec_clockEffect h with
  | resetAlone => exact absurd rfl halone
  | resetCycle hr => exact absurd ⟨rfl, hr⟩ hcycle
  | runCycle hr =>
    have hidle := State.active_of_halted hh
    exact ⟨State.runCycle_clock_of_inactive hidle,
      State.runCycle_subTickCount_of_not_serveTick (State.serveTick_of_inactive hidle)⟩
  | event e => rw [State.mapClock_of_halted _ hh]; exact ⟨rfl, rfl⟩
  | tick hrun => exact (hrunning hrun).elim
  | advance hrun => exact (hrunning hrun).elim
  | hourOvf ovf hrun => exact (hrunning hrun).elim
  | hold hclock hsub => exact ⟨hclock, hsub⟩

/-- Only EXIT, or a cycle whose event is EXIT, halts a running core. -/
theorem exit_of_exec_halts {i : Instr} {s t : State} (h : exec i s = .next t) (hrunning : s.halted = false)
    (ht : t.halted = true) : i = .exit ∨ (i = .step ∧ decode (.ev9 s.event.ev) = .ok .exit) := by
  have hstays (hsame : t.halted = s.halted) : False := by simp [hsame, hrunning] at ht
  cases exec_clockEffect h with
  | resetAlone => exact nomatch ht
  | resetCycle hr => exact nomatch ht
  | runCycle hr =>
    rw [State.runCycle_halted_iff, hrunning] at ht
    exact .inr ⟨rfl, (decode_ev9_eq_exit_iff _).mpr (ht.resolve_right Bool.false_ne_true)⟩
  | event e =>
    rw [State.mapClock_applyEvent_halted, hrunning] at ht
    exact .inl (congrArg Event.toInstr (ht.resolve_right Bool.false_ne_true))
  | tick hrun => exact (hstays (State.applyTick_driveAckTick_ackTimer_halted _ _)).elim
  | advance hrun => exact (hstays (State.applyTick_halted _ _)).elim
  | hourOvf ovf hrun => exact (hstays (State.setTime_halted _ _ _)).elim
  | hold hclock hsub => exact (hstays (congrArg Clock.halted hclock)).elim

/-- EXIT, and a cycle without reset whose event is EXIT, leave the core halted. -/
theorem exec_halts_of_exit {i : Instr} {s t : State} (h : exec i s = .next t)
    (hexit : i = .exit ∨ (i = .step ∧ s.inputs.rst = false ∧ decode (.ev9 s.event.ev) = .ok .exit)) :
    t.halted = true := by
  rcases hexit with rfl | ⟨rfl, hr, hev⟩
  · obtain rfl := Host.Outcome.next.inj ((exec_toInstr .exit s).symm.trans h)
    exact (s.mapClock_applyEvent_halted .exit).mpr (.inl rfl)
  · obtain ⟨-, ⟨hr', -⟩ | ⟨-, rfl⟩⟩ := execStep_next h
    · simp [hr] at hr'
    · exact s.runCycle_halted_iff.mpr (.inl ((decode_ev9_eq_exit_iff _).mp hev))

/-- A reset, alone or as the cycle, leaves the core running. -/
theorem exec_runs_after_reset {i : Instr} {s t : State} (h : exec i s = .next t)
    (hreset : i = .reset ∨ (i = .step ∧ s.inputs.rst = true)) : t.halted = false := by
  rcases hreset with rfl | ⟨rfl, hr⟩
  · obtain rfl : s.applyReset = t := Host.Outcome.next.inj h
    exact s.applyReset_halted
  · obtain ⟨-, ⟨-, rfl⟩ | ⟨hr', -⟩⟩ := execStep_next h
    · exact s.applyReset_halted
    · simp [hr] at hr'

/-- Settles O35: the clock state of a halted core, what halts, that it does, and what a reset does. -/
theorem haltedIsSetByExitAndClearedByReset : Obligations.HaltedIsSetByExitAndClearedByReset := by
  intro i s t h
  refine ⟨fun hh halone hcycle => ?_, exit_of_exec_halts h, exec_halts_of_exit h, exec_runs_after_reset h⟩
  obtain ⟨hclock, hsub⟩ := exec_keeps_clock_of_halted h hh halone hcycle
  exact ⟨(congrArg Clock.halted hclock).trans hh, congrArg Clock.packedTime hclock, congrArg Clock.hours hclock,
    hsub⟩

/-! ### What the core does not read (R30, R36, R148, D23) -/

/-- `s` with other neighbours, other copies of wires and read results, and another `FEATURE_MODE`. -/
def State.withUnread (s : State) (e : Neighbours) (w : Wires) (d : BusWord) (r : TimeRead) (f : FeatureMode) : State :=
  { s with ext := e, wires := w, hostRead := d, timeRead := r, cfg := { s.cfg with featureMode := f } }

section
variable (s : State) (e : Neighbours) (w : Wires) (d : BusWord) (r : TimeRead) (f : FeatureMode)

@[simp] theorem State.withUnread_inputs : (s.withUnread e w d r f).inputs = s.inputs := rfl
@[simp] theorem State.withUnread_event : (s.withUnread e w d r f).event = s.event := rfl
@[simp] theorem State.withUnread_phase1 : (s.withUnread e w d r f).phase1 = s.phase1 := rfl
@[simp] theorem State.withUnread_serveTick : (s.withUnread e w d r f).serveTick = s.serveTick := rfl
@[simp] theorem State.withUnread_phase2 : (s.withUnread e w d r f).phase2 = s.phase2 := rfl
@[simp] theorem State.withUnread_trans : (s.withUnread e w d r f).trans = s.trans := rfl
@[simp] theorem State.withUnread_hostAckBtn : (s.withUnread e w d r f).hostAckBtn = s.hostAckBtn := rfl
@[simp] theorem State.withUnread_hostAckTick : (s.withUnread e w d r f).hostAckTick = s.hostAckTick := rfl
@[simp] theorem State.withUnread_btnCap : (s.withUnread e w d r f).btnCap = s.btnCap := rfl
@[simp] theorem State.withUnread_tickPending : (s.withUnread e w d r f).tickPending = s.tickPending := rfl

/-- RESET takes the seeds, which are no part of what is unread. -/
@[simp] theorem State.withUnread_applyReset_core : (s.withUnread e w d r f).applyReset.core = s.applyReset.core := rfl

/-- A cycle computes the registers from what the core reads. -/
@[simp] theorem State.withUnread_runCycle_core : (s.withUnread e w d r f).runCycle.core = s.runCycle.core := by
  simp [State.core]

end

/-- What a step leaves: the registers of RESET or of the core's own cycle, and the inputs of the next cycle. -/
theorem step_next_registers {s t : State} (h : step s = .next t) :
    t.core = (if s.inputs.rst then s.applyReset.core else s.runCycle.core) ∧ t.trace = s.trace.tail ∧
      t.cycle = s.cycle + 1 := by
  obtain ⟨-, ⟨hr, rfl⟩ | ⟨hr, rfl⟩⟩ := step_next h <;> rw [hr]
  · exact ⟨rfl, rfl, rfl⟩
  · exact ⟨rfl, rfl, rfl⟩

/-- Settles O51: the reset line, and the registers of either kind of cycle, come from what the core reads. -/
theorem onlyRegistersParametersAndInputsMatter : Obligations.OnlyRegistersParametersAndInputsMatter := by
  intro s t u e w d r f ht hu
  obtain ⟨hcore, htrace, hcycle⟩ := step_next_registers ht
  obtain ⟨hcore', htrace', hcycle'⟩ := step_next_registers (s := s.withUnread e w d r f) hu
  simp only [State.withUnread_inputs, State.withUnread_applyReset_core, State.withUnread_runCycle_core] at hcore'
  exact ⟨hcore.trans hcore'.symm, htrace.trans htrace'.symm, hcycle.trans hcycle'.symm⟩

end Sys2Proof.Machine


/-! PROOFS. The encoding (30_encoding.md): decoding undoes the encoder, the words of the event bus, the parameters
fixed at construction, and the register access of a cycle against the operation it decodes to. -/

namespace Sys2Proof

/-! ### Decoding what the encoder writes (R60, R63 to R66, R73) -/

/-- The used low bits of a widened word are the word (R41, R65). -/
theorem extract_setWidth {n m : Nat} (x : BitVec n) (h : n ≤ m) : (x.setWidth m).extractLsb' 0 n = x := by
  rw [BitVec.extractLsb'_setWidth_of_le ((Nat.zero_add n).trans_le h), BitVec.extractLsb'_eq_self]

/-- The encoder writes a selection that selects the instruction: an event by its word, a write with fewer bits than the
bus has by those bits, and every other operation as it stands. -/
theorem decode_encode (i : Instr) : decode (encode i) = .ok i := by
  cases i with
  | noop => exact Machine.decode_encodeEv9 .noop
  | setSec v => exact Machine.decode_encodeEv9 (.setSec v)
  | setMin v => exact Machine.decode_encodeEv9 (.setMin v)
  | setHrs v => exact Machine.decode_encodeEv9 (.setHrs v)
  | bump n => exact Machine.decode_encodeEv9 (.bump n)
  | exit => exact Machine.decode_encodeEv9 .exit
  | wrTper half d => simp only [encode, decode, decodeReg, extract_setWidth d (by decide : 16 ≤ 32)]
  | wrDisp k pattern => simp only [encode, decode, decodeReg, extract_setWidth pattern (by decide : 8 ≤ 32)]
  | wrLed d => simp only [encode, decode, decodeReg, extract_setWidth d (by decide : 10 ≤ 32)]
  | _ => rfl

/-- Settles O1: the round trip holds for every instruction, well formed or not. -/
theorem decodeOfEncodeIsTheInstruction : Obligations.DecodeOfEncodeIsTheInstruction :=
  fun i _ => decode_encode i

/-! ### Words written out (R62 to R64) -/

/-- Settles O3: the decoder sees the kind and the payload the word is made of, and the kind is one of eight. -/
theorem everyEventWordDecodesByItsKind : Obligations.EveryEventWordDecodesByItsKind := by
  intro k v
  simp only [decode, decodeEv9, Machine.evKind_append, Machine.evPayload_append]
  obtain ⟨⟨n, hn⟩⟩ := k
  interval_cases n <;> rfl

/-- A switch word selects the operation of the event its rows give (R73). -/
theorem decode_sw10_of_event {w : SW10} {btnLvl : Bool} {amount : Payload} {e : Event}
    (h : decodeSw10 w btnLvl amount = e) : decode (.sw10 w btnLvl amount) = .ok e.toInstr := by
  rw [decode, h]

/-- Settles O2: the event words by their kind and payload, the switch words by the first row that matches, the pending
words by their bits. -/
theorem writtenOutWordsDecode : Obligations.WrittenOutWordsDecode := by
  have hev := everyEventWordDecodesByItsKind
  exact ⟨hev 1 42, hev 2 7, hev 3 5, hev 4 2, hev 5 63, hev 7 1, decode_sw10_of_event (e := .setSec 42) rfl,
    decode_sw10_of_event (e := .setMin 7) rfl, rfl, rfl, rfl⟩

end Sys2Proof

namespace Sys2Proof.Machine

/-! ### The parameters (R68) -/

/-- An event writes no parameter. -/
@[simp] theorem State.mapClock_cfg (s : State) (f : Clock → Clock) : (s.mapClock f).cfg = s.cfg := by
  cases h : s.halted
  · rw [State.mapClock_of_running f h]; rfl
  · rw [State.mapClock_of_halted f h]

@[simp] theorem State.ackCapture_cfg (s : State) (a : Bool) : (s.ackCapture a).cfg = s.cfg := by
  cases a <;> rfl
@[simp] theorem State.ackTimer_cfg (s : State) (a : Bool) : (s.ackTimer a).cfg = s.cfg := by
  cases a <;> rfl

/-- An operation answers one state only: when that state keeps the parameters, the answer does. -/
theorem cfg_of_answer {s t u : State} (h : (.next u : Result) = .next t) (hcfg : u.cfg = s.cfg) : t.cfg = s.cfg :=
  Host.Outcome.next.inj h ▸ hcfg

/-- No operation writes a parameter. -/
theorem exec_cfg {i : Instr} {s t : State} (h : exec i s = .next t) : t.cfg = s.cfg := by
  cases i with
  | step =>
    obtain ⟨-, ⟨-, rfl⟩ | ⟨-, rfl⟩⟩ := execStep_next h
    · exact s.applyReset_cfg
    · exact s.runCycle_cfg
  | setSec | setMin | setHrs | bump | exit => exact cfg_of_answer h (s.mapClock_cfg _)
  | tick =>
    cases hh : s.halted
    · exact cfg_of_answer ((execTick_of_running hh).symm.trans h) (State.ackTimer_cfg _ _)
    · exact cfg_of_answer ((execTick_of_halted hh).symm.trans h) rfl
  | advance =>
    cases hh : s.halted
    · exact cfg_of_answer ((execAdvance_of_running hh).symm.trans h) rfl
    · exact cfg_of_answer ((execAdvance_of_halted hh).symm.trans h) rfl
  | hourOvf ovf =>
    cases hh : s.halted
    · exact cfg_of_answer ((execHourOvf_of_running ovf hh).symm.trans h) rfl
    · exact cfg_of_answer ((execHourOvf_of_halted ovf hh).symm.trans h) rfl
  | ack | ackEdge | evtEdge => exact cfg_of_answer h (State.ackCapture_cfg _ _)
  | ackTstat => exact cfg_of_answer h (s.ackTimer_cfg _)
  | _ => exact cfg_of_answer h rfl

/-- No step of the machine writes a parameter. -/
theorem step_cfg {s t : State} (h : step s = .next t) : t.cfg = s.cfg := by
  obtain ⟨-, ⟨-, rfl⟩ | ⟨-, rfl⟩⟩ := step_next h
  · exact s.hostPhase.applyReset_cfg
  · exact s.hostPhase.runCycle_cfg

/-- Settles O49: no arm of exec writes a parameter, and neither does a step. -/
theorem parametersAreFixed : Obligations.ParametersAreFixed :=
  ⟨fun _ _ _ => exec_cfg, fun _ _ => step_cfg⟩

/-! ### The register access of a cycle (R41, R65) -/

@[simp] theorem State.ackCapture_ext (s : State) (a : Bool) : (s.ackCapture a).ext = s.ext := by
  cases a <;> rfl
@[simp] theorem State.ackCapture_hostRead (s : State) (a : Bool) : (s.ackCapture a).hostRead = s.hostRead := by
  cases a <;> rfl
@[simp] theorem State.ackTimer_ext (s : State) (a : Bool) : (s.ackTimer a).ext = s.ext := by
  cases a <;> rfl
@[simp] theorem State.ackTimer_hostRead (s : State) (a : Bool) : (s.ackTimer a).hostRead = s.hostRead := by
  cases a <;> rfl

/-- What a listed access is as an operation: it leaves the neighbours and the host's word that the access leaves. -/
theorem exists_exec_of_decodeReg {a : RegAccess} {o : Instr} (s : State) (ho : decodeReg a = .ok o) :
    ∃ u, exec o s = .next u ∧ u.ext = s.ext.after (some a) ∧ u.hostRead = s.wordAfter (some a) := by
  cases a with
  | read r =>
    cases r with
    | led | display | timerControl | timerPeriod => exact nomatch ho
    | switches | buttonData | buttonEdge | timerStatus =>
      obtain rfl := Except.ok.inj ho
      exact ⟨_, rfl, rfl, rfl⟩
  | write w =>
    cases w with
    | switches | buttonData => exact nomatch ho
    | buttonEdge d =>
      obtain rfl := Except.ok.inj ho
      exact ⟨_, rfl, s.ackCapture_ext _, s.ackCapture_hostRead _⟩
    | timerStatus d =>
      obtain rfl := Except.ok.inj ho
      exact ⟨_, rfl, s.ackTimer_ext _, s.ackTimer_hostRead _⟩
    | led | display | timerControl | timerPeriod =>
      obtain rfl := Except.ok.inj ho
      exact ⟨_, rfl, rfl, rfl⟩

/-- An access the table does not list acknowledges nothing and reaches no neighbour. -/
theorem unlisted_access {a : RegAccess} {r : Reject} (h : decodeReg a = .error r) :
    writesBtnAck (some a) = false ∧ writesTickAck (some a) = false ∧ ∀ n : Neighbours, n.after (some a) = n := by
  cases a with
  | read r => exact ⟨rfl, rfl, fun _ => rfl⟩
  | write w =>
    cases w with
    | switches | buttonData => exact ⟨rfl, rfl, fun _ => rfl⟩
    | led | display | buttonEdge | timerStatus | timerControl | timerPeriod => exact nomatch h

/-- Of the neighbours and the host's word a step leaves what the access of its cycle leaves, in a reset cycle too (R171). -/
theorem step_next_host {s t : State} (h : step s = .next t) :
    t.ext = s.ext.after s.inputs.host ∧ t.hostRead = s.wordAfter s.inputs.host := by
  obtain ⟨-, ⟨-, rfl⟩ | ⟨-, rfl⟩⟩ := step_next h
  · exact ⟨rfl, rfl⟩
  · exact ⟨rfl, rfl⟩

/-- `s` at the start of a cycle with the inputs `i`, in which the host makes the access `a`. -/
def State.withAccess (s : State) (i : Inputs) (rest : List Inputs) (a : Option RegAccess) : State :=
  { s with trace := { i with host := a } :: rest }

/-- The core sees an access through the two acknowledge ports alone: a cycle with one that acknowledges nothing ends as
the cycle without access. -/
theorem State.withAccess_runCycle_core (s : State) (i : Inputs) (rest : List Inputs) {a : Option RegAccess}
    (hbtn : writesBtnAck a = false) (htick : writesTickAck a = false) :
    (s.withAccess i rest a).runCycle.core = (s.withAccess i rest none).runCycle.core := by
  have hackBtn : (s.withAccess i rest a).hostAckBtn = (s.withAccess i rest none).hostAckBtn :=
    congrArg (i.hostAckBtn || ·) hbtn
  have hackTick : (s.withAccess i rest a).hostAckTick = (s.withAccess i rest none).hostAckTick :=
    congrArg (i.hostAckTick || ·) htick
  simp only [State.core, State.runCycle_btnCap, State.runCycle_tickPending, hackBtn, hackTick]
  rfl

/-- A cycle with an access that acknowledges nothing leaves the core as the cycle without access does: neither the reset
line nor RESET sees the access. -/
theorem step_withAccess_core {s t v : State} {i : Inputs} {rest : List Inputs} {a : Option RegAccess}
    (hbtn : writesBtnAck a = false) (htick : writesTickAck a = false)
    (ht : step (s.withAccess i rest a) = .next t) (hv : step (s.withAccess i rest none) = .next v) :
    t.core = v.core := by
  obtain ⟨hcore, -, -⟩ := step_next_registers ht
  obtain ⟨hcore', -, -⟩ := step_next_registers hv
  rw [hcore, hcore', s.withAccess_runCycle_core i rest hbtn htick]
  rfl

/-- Settles O58: a step and exec of a listed access both leave what the access leaves; an unlisted access raises no
acknowledge, which is all the core sees of one. -/
theorem aCycleRunsTheHostsDecodedAccess : Obligations.ACycleRunsTheHostsDecodedAccess := by
  intro s i rest a hc
  obtain ⟨t, ht⟩ := exists_step_next (s := s.withAccess i rest (some a)) hc
  obtain ⟨v, hv⟩ := exists_step_next (s := s.withAccess i rest none) hc
  obtain ⟨hext, hword⟩ := step_next_host ht
  refine ⟨t, v, ht, hv, fun o u ho hu => ?_, fun r hr => ?_⟩
  · obtain ⟨u', hu', hext', hword'⟩ := exists_exec_of_decodeReg s ho
    obtain rfl := Host.Outcome.next.inj (hu'.symm.trans hu)
    exact ⟨hext.trans hext'.symm, hword.trans hword'.symm⟩
  · obtain ⟨hbtn, htick, hafter⟩ := unlisted_access hr
    exact ⟨step_withAccess_core hbtn htick ht hv, hext.trans (hafter s.ext)⟩

end Sys2Proof.Machine

/-! PROOFS. The BCD codec (40_bcd_codec.md): valid words as times, INC by the second and by its lanes, DEC and ENC. -/

namespace Sys2Proof.Machine

/-! ### Valid words as times (R80) -/

/-- A valid word is ENC of the two parts of its time in seconds. -/
theorem eq_enc_of_time {p : PT16} {t : Nat} (hp : validPT p = true) (ht : 60 * minutesOf p + secondsOf p = t) :
    p = enc (t / 60) (t % 60) := by
  obtain ⟨-, hsec⟩ := fields_lt hp
  have hdiv : t / 60 = minutesOf p := by omega
  have hmod : t % 60 = secondsOf p := by omega
  rw [hdiv, hmod, enc_minutesOf_secondsOf hp]

/-- Valid words are told apart by their times. -/
theorem eq_iff_time {p q : PT16} (hp : validPT p = true) (hq : validPT q = true) :
    p = q ↔ 60 * minutesOf p + secondsOf p = 60 * minutesOf q + secondsOf q :=
  ⟨fun h => h ▸ rfl, eq_of_time hp hq⟩

/-- Settles O4: the bounds are the definition's, and the two round trips are those of ENC. -/
theorem validWordsAreThePairsOfMinutesAndSeconds : Obligations.ValidWordsAreThePairsOfMinutesAndSeconds := by
  refine ⟨validPT_iff, fun p hp => ?_, fun m n hm hn => ⟨validPT_enc m n, ?_, ?_⟩⟩
  · obtain ⟨hmin, hsec⟩ := fields_lt hp
    exact ⟨hmin, hsec, enc_minutesOf_secondsOf hp⟩
  · rw [minutesOf_enc, Nat.mod_eq_of_lt hm]
  · rw [secondsOf_enc, Nat.mod_eq_of_lt hn]

/-! ### INC (R82 to R84) -/

/-- INC alone shows its outputs on its wires. -/
theorem exec_inc (p : PT16) (s : State) : exec (.inc p) s = .next (s.setWires { s.wires with inc := inc p }) := rfl

/-- INC of a valid word is valid. -/
theorem inc_keeps_valid {p : PT16} (h : validPT p = true) : validPT (inc p).q = true := by
  rw [inc_of_validPT h]
  exact (incDigits_spec h).1

/-- INC of a valid word is one second later, modulo an hour. -/
theorem time_inc {p : PT16} (h : validPT p = true) :
    60 * minutesOf (inc p).q + secondsOf (inc p).q = (60 * minutesOf p + secondsOf p + 1) % 3600 := by
  rw [inc_of_validPT h]
  exact (incDigits_spec h).2

/-- Of the valid words only the last one of the hour goes to zero: the times that INC takes to 0 are 3599 alone. -/
theorem inc_eq_zero_iff {p : PT16} (h : validPT p = true) : (inc p).q = 0 ↔ p = 0x5959#16 := by
  have hzero : validPT 0 = true ∧ minutesOf 0 = 0 ∧ secondsOf 0 = 0 := by decide
  have hlast : validPT 0x5959#16 = true ∧ minutesOf 0x5959#16 = 59 ∧ secondsOf 0x5959#16 = 59 := by decide
  obtain ⟨hv0, hm0, hs0⟩ := hzero
  obtain ⟨hv1, hm1, hs1⟩ := hlast
  have hlt := fields_lt h
  rw [eq_iff_time (inc_keeps_valid h) hv0, eq_iff_time h hv1, time_inc h, hm0, hs0, hm1, hs1]
  omega

/-- `hour_ovf` marks the last word of the hour. -/
theorem inc_hourOvf {p : PT16} (h : validPT p = true) : (inc p).hourOvf = decide (p = 0x5959#16) := by
  have hq := inc_eq_zero_iff h
  rw [inc_of_validPT h] at hq ⊢
  exact Bool.eq_iff_iff.mpr (by simpa using hq)

/-- `sec_wrap` marks the seconds 59. -/
theorem inc_secWrap {p : PT16} (h : validPT p = true) : (inc p).secWrap = decide (secondsOf p = 59) := by
  obtain ⟨-, -, htens, hones⟩ := (validPT_iff p).mp h
  have hsec : secondsOf p = (secTens p).toNat * 10 + (secOnes p).toNat := rfl
  have hdigits : secTens p = 5 ∧ secOnes p = 9 ↔ secondsOf p = 59 := by
    rw [← BitVec.toNat_inj, ← BitVec.toNat_inj, digit_values.2.1, digit_values.2.2]
    omega
  rw [inc_of_validPT h]
  exact Bool.eq_iff_iff.mpr (by simpa using hdigits)

/-- Settles O5: the three outputs by the time of the word, on the wires that exec writes. -/
theorem incAddsOneSecond : Obligations.IncAddsOneSecond := by
  intro p s hp
  have hout : inc p = ⟨(inc p).q, (inc p).secWrap, (inc p).hourOvf⟩ := rfl
  have hq := eq_enc_of_time (inc_keeps_valid hp) (time_inc hp)
  rw [inc_secWrap hp, inc_hourOvf hp, hq] at hout
  rw [exec_inc, hout]
  rfl

/-- Settles O7: a word one second later, modulo an hour, is never the word itself. -/
theorem incKeepsValidityWithoutFixedPoint : Obligations.IncKeepsValidityWithoutFixedPoint := by
  intro p hp
  refine ⟨inc_keeps_valid hp, fun hfixed => ?_, inc_eq_zero_iff hp⟩
  have htime := time_inc hp
  rw [hfixed] at htime
  omega

/-! ### The lanes (R83, R84) -/

/-- Without a carry in a lane keeps its digit. -/
@[simp] theorem lane_of_no_carry (lim d : BitVec 4) : lane lim d false = (d, false) := rfl

/-- A carry into a digit at its limit leaves 0 and goes on. -/
@[simp] theorem lane_of_limit (lim : BitVec 4) : lane lim lim true = (0, true) := by
  simp [lane]

/-- A carry into any other digit adds one and stops there. -/
theorem lane_of_ne_limit {lim d : BitVec 4} (h : d ≠ lim) : lane lim d true = (d + 1, false) := by
  simp [lane, h]

/-- The ripple stops at the first digit below its limit: the lanes leave what INC's cases leave, and a carry leaves a
lane when every digit up to it is at its limit. -/
theorem incLanes_eq (p : PT16) :
    incLanes p = (incDigits p, secTens p == 5 && secOnes p == 9,
      minTens p == 5 && (minOnes p == 9 && (secTens p == 5 && secOnes p == 9))) := by
  simp only [incLanes]
  rcases incDigits_cases p with
    ⟨h0, hq⟩ | ⟨h0, h1, hq⟩ | ⟨h0, h1, h2, hq⟩ | ⟨h0, h1, h2, h3, hq⟩ | ⟨h0, h1, h2, h3, hq⟩
  · simp only [hq, lane_of_ne_limit h0, lane_of_no_carry, beq_false_of_ne h0, Bool.and_false]
  · simp only [hq, h0, lane_of_limit, lane_of_ne_limit h1, lane_of_no_carry, beq_false_of_ne h1, Bool.false_and,
      Bool.and_false]
  · simp only [hq, h0, h1, lane_of_limit, lane_of_ne_limit h2, lane_of_no_carry, beq_self_eq_true,
      beq_false_of_ne h2, Bool.and_self, Bool.false_and, Bool.and_false]
  · simp only [hq, h0, h1, h2, lane_of_limit, lane_of_ne_limit h3, beq_self_eq_true, beq_false_of_ne h3,
      Bool.and_self, Bool.false_and]
  · simp only [hq, h0, h1, h2, h3, lane_of_limit, beq_self_eq_true, Bool.and_self, packDigits_zero]

/-- The four digits of the last word of the hour. -/
theorem eq_last_iff (p : PT16) :
    p = 0x5959#16 ↔ minTens p = 5 ∧ minOnes p = 9 ∧ secTens p = 5 ∧ secOnes p = 9 :=
  ⟨fun h => h ▸ ⟨rfl, rfl, rfl, rfl⟩, fun ⟨h3, h2, h1, h0⟩ => eq_of_digits h3 h2 h1 h0⟩

/-- Settles O6: the last lane's carry and `hour_ovf` both mark the last word of the hour. -/
theorem laneAdderIsInc : Obligations.LaneAdderIsInc := by
  intro p hp
  have hcarry : (minTens p == 5 && (minOnes p == 9 && (secTens p == 5 && secOnes p == 9))) = (inc p).hourOvf := by
    rw [inc_hourOvf hp, Bool.eq_iff_iff, decide_eq_true_eq, eq_last_iff]
    simp only [Bool.and_eq_true, beq_iff_eq]
  rw [incLanes_eq, hcarry, inc_of_validPT hp]

/-! ### INC repeated (R88) -/

/-- INC applied `k` times to a valid word gives a valid word `k` seconds later, modulo an hour. -/
theorem iterate_inc_spec {p : PT16} (h : validPT p = true) (k : Nat) :
    validPT ((fun q => (inc q).q)^[k] p) = true ∧
      60 * minutesOf ((fun q => (inc q).q)^[k] p) + secondsOf ((fun q => (inc q).q)^[k] p) =
        (60 * minutesOf p + secondsOf p + k) % 3600 := by
  induction k with
  | zero =>
    have hlt := fields_lt h
    refine ⟨h, ?_⟩
    rw [Function.iterate_zero_apply]
    omega
  | succ k ih =>
    obtain ⟨hvalid, htime⟩ := ih
    rw [Function.iterate_succ_apply']
    refine ⟨inc_keeps_valid hvalid, ?_⟩
    rw [time_inc hvalid, htime]
    omega

/-- Settles O8: a time below 3600 comes back after `k` more seconds exactly when 3600 divides `k`. -/
theorem incHasPeriod3600 : Obligations.IncHasPeriod3600 := by
  intro p k hp
  obtain ⟨hvalid, htime⟩ := iterate_inc_spec hp k
  refine ⟨eq_enc_of_time hvalid htime, ?_⟩
  have hlt := fields_lt hp
  rw [eq_iff_time hvalid hp, htime]
  omega

/-! ### DEC (R86) -/

/-- DEC alone shows its outputs on its wires. -/
theorem exec_dec (p : PT16) (s : State) : exec (.dec p) s = .next (s.setWires { s.wires with dec := dec p }) := rfl

/-- The bounds that `ok` of DEC says. -/
theorem digitsOk_iff (p : PT16) : digitsOk p = true ↔
    (minTens p).toNat ≤ 9 ∧ (minOnes p).toNat ≤ 9 ∧ (secTens p).toNat ≤ 9 ∧ (secOnes p).toNat ≤ 9 := by
  simp [digitsOk, and_assoc]

/-- A word with minutes and seconds 0 is valid, and so it is the zero word. -/
theorem eq_zero_of_fields {p : PT16} (hmin : minutesOf p = 0) (hsec : secondsOf p = 0) : p = 0 := by
  have hvalid : validPT p = true := by
    rw [validPT_iff]
    simp only [minutesOf, secondsOf] at hmin hsec
    omega
  rw [← enc_minutesOf_secondsOf hvalid, hmin, hsec]
  rfl

/-- A DEC that succeeds with both fields zero is of the zero word. -/
theorem dec_eq_zero_iff (p : PT16) : (dec p).ok = true ∧ (dec p).m = 0 ∧ (dec p).s = 0 ↔ p = 0 := by
  constructor
  · rintro ⟨hok, hm, hs⟩
    obtain ⟨hmin, hsec⟩ := dec_toNat ((dec_ok p).symm.trans hok)
    exact eq_zero_of_fields (hmin.symm.trans (congrArg BitVec.toNat hm)) (hsec.symm.trans (congrArg BitVec.toNat hs))
  · rintro rfl
    exact ⟨rfl, rfl, rfl⟩

/-- Settles O9: the outputs of DEC, on the wires that exec writes. -/
theorem decConvertsEachByte : Obligations.DecConvertsEachByte := by
  intro p s
  refine ⟨dec p, exec_dec p s, ?_, fun hok => ?_, dec_eq_zero_iff p⟩
  · rw [dec_ok]
    exact digitsOk_iff p
  · rw [dec_ok] at hok
    exact dec_toNat hok

/-! ### ENC (R87, R81) -/

/-- ENC alone shows its output on its wire. -/
theorem exec_enc (m n : Nat) (s : State) : exec (.enc m n) s = .next (s.setWires { s.wires with enc := enc m n }) := rfl

/-- The digits of ENC. -/
theorem enc_digits (m n : Nat) :
    minTens (enc m n) = BitVec.ofNat 4 (m % 60 / 10) ∧ minOnes (enc m n) = BitVec.ofNat 4 (m % 60 % 10) ∧
      secTens (enc m n) = BitVec.ofNat 4 (n % 60 / 10) ∧ secOnes (enc m n) = BitVec.ofNat 4 (n % 60 % 10) := by
  simp only [enc_eq_packDigits, minTens_packDigits, minOnes_packDigits, secTens_packDigits, secOnes_packDigits,
    and_self]

/-- DEC of ENC succeeds with the remainders (R88 (a)). -/
theorem dec_enc (m n : Nat) : dec (enc m n) = ⟨true, BitVec.ofNat 7 (m % 60), BitVec.ofNat 7 (n % 60)⟩ := by
  rw [dec_of_digitsOk (digitsOk_of_validPT (validPT_enc m n)), minutesOf_enc, secondsOf_enc]

/-- ENC of the fields DEC gives of a valid word is the word. -/
theorem enc_dec {p : PT16} (h : validPT p = true) : enc (dec p).m.toNat (dec p).s.toNat = p := by
  obtain ⟨hmin, hsec⟩ := dec_toNat (digitsOk_of_validPT h)
  rw [hmin, hsec, enc_minutesOf_secondsOf h]

/-- Settles O10: the digits, the validity and the decoding of ENC's word, on the wire that exec writes. -/
theorem encDecodesToTheRemainders : Obligations.EncDecodesToTheRemainders := by
  refine ⟨fun m n s => ?_, fun p => enc_dec⟩
  obtain ⟨hminTens, hminOnes, hsecTens, hsecOnes⟩ := enc_digits m n
  exact ⟨enc m n, exec_enc m n s, validPT_enc m n, hminTens, hminOnes, hsecTens, hsecOnes, dec_enc m n⟩

end Sys2Proof.Machine

/-! PROOFS. The edge detector (41_edge_detector.md): its cells, the two derivations of an event performed alone, and the
cycles in which a captured edge is served or a steady line stays quiet. -/

namespace Sys2Proof

/-- The refused configuration is one of level mode. -/
theorem Params.refusedPair_of_edge {c : Params} (h : c.inputMode = .edge) : c.refusedPair = false := by
  simp [Params.refusedPair, h]

/-- The default positions of the switch word (R62). -/
theorem Params.defaultLayout_iff (c : Params) :
    c.defaultLayout = true ↔ c.valLsb = 0 ∧ c.selLsb = 8 ∧ c.exitBit = 7 := by
  simp [Params.defaultLayout, and_assoc]

end Sys2Proof

namespace Sys2Proof.Machine

/-! ### The sample registers and the two cells (R101 to R105, R113) -/

/-- SAMPLE alone. -/
theorem exec_sample (b : Bool) (w : SW10) (s : State) : exec (.sample b w) s = .next (s.setSamples b w) := rfl

/-- Settles O11: the two sample registers are the whole update. -/
theorem sampleRegistersTheLines : Obligations.SampleRegistersTheLines :=
  fun b w s => exec_sample b w s

/-- CAPTURE alone. -/
theorem exec_capture (t a : Bool) (s : State) :
    exec (.capture t a) s = .next (s.setBtnCap (captureCell t s.btnCap a)) := rfl

/-- A set cell is cleared exactly by an acknowledge that no set meets. -/
theorem captureCell_pending_eq_false_iff (set a : Bool) :
    captureCell set true a = false ↔ a = true ∧ set = false := by
  cases a
  · simp [captureCell]
  · simp

/-- Settles O12: the cell from Idle, and from Pending. -/
theorem captureIsTheIdlePendingMachine : Obligations.CaptureIsTheIdlePendingMachine := by
  refine fun t a s => ⟨_, exec_capture t a s, fun hidle => ?_, fun hpending => ?_⟩
  · rw [hidle, captureCell_idle]
  · rw [hpending, captureCell_pending_eq_false_iff]

/-- An acknowledge leaves the transition of the cycle in the capture bit, and nothing else changes. -/
theorem State.ackCapture_eq (s : State) (a : Bool) :
    s.ackCapture a = s.setBtnCap (if a then s.trans else s.btnCap) := by
  cases a
  · rfl
  · exact congrArg s.setBtnCap (captureCell_ack s.trans s.btnCap)

/-- ACK alone. -/
theorem exec_ack (s : State) : exec .ack s = .next (s.setBtnCap s.trans) :=
  congrArg Host.Outcome.next (s.ackCapture_eq true)

/-- Settles O13: what the acknowledge leaves is the transition that edge recognition sees. -/
theorem ackClearsUnlessATransitionArrives : Obligations.AckClearsUnlessATransitionArrives :=
  fun s => ⟨s.trans, exec_ack s, recogniseEdge_eq_true_iff _ _ _⟩

/-- TCAPTURE alone. -/
theorem exec_tcapture (t a h : Bool) (s : State) :
    exec (.tcapture t a h) s = .next (s.setTickPending (captureCell t s.tickPending (a || h))) := rfl

/-- Settles O14: the cell under either of its two acknowledges. -/
theorem timeoutWinsOverItsAcknowledge : Obligations.TimeoutWinsOverItsAcknowledge := by
  refine fun t a h s => ⟨_, exec_tcapture t a h s, ?_⟩
  rw [captureCell_eq_true_iff, Bool.or_eq_false_iff]

/-- Settles O21: the registers of the core's own cycle, where either cell has two acknowledges. -/
theorem everyCycleSamplesAndCaptures : Obligations.EveryCycleSamplesAndCaptures := by
  refine fun s hc hr => ⟨s.runCycle, execStep_run s hc hr, rfl, rfl, ?_, ?_⟩
  · rw [State.runCycle_btnCap, captureCell_eq_true_iff, Bool.or_eq_false_iff]
  · rw [State.runCycle_tickPending, captureCell_eq_true_iff, Bool.or_eq_false_iff]

/-! ### Dispatch cycles (R12) -/

/-- A dispatch cycle is one with `dispatch_en` of a running core. -/
theorem State.active_eq_true_iff (s : State) : s.active = true ↔ s.inputs.dispatchEn = true ∧ s.halted = false := by
  simp [State.active]

/-- What makes a cycle no dispatch cycle. -/
theorem State.active_eq_false_iff (s : State) : s.active = false ↔ s.inputs.dispatchEn = false ∨ s.halted = true := by
  simp only [State.active, Bool.and_eq_false_iff, Bool.not_eq_false']

/-! ### EVT_EDGE (R107, R108) -/

/-- What EVT_EDGE drives in the present cycle. -/
def State.edgeOut (s : State) : EventOut := if s.active then evtEdge s.cfg s.btnCap s.btnLvl else .idle

/-- It acknowledges a captured edge in a dispatch cycle, whatever the level. -/
theorem State.edgeOut_ackBtn (s : State) : s.edgeOut.ackBtn = (s.active && s.btnCap) := by
  cases h : s.active
  · simp [State.edgeOut, h]
  · simp [State.edgeOut, h]

/-- The event is a bump exactly when an acknowledged edge finds the level pressed. -/
theorem State.edgeOut_ev (s : State) :
    s.edgeOut.ev = encodeEv9 (if s.edgeOut.ackBtn = true ∧ s.btnLvl = true then .bump s.cfg.bumpAmount else .noop) := by
  rw [State.edgeOut_ackBtn]
  cases h : s.active
  · simp [State.edgeOut, h]
  · simp [State.edgeOut, h, evtEdge_ev]

/-- The operation on the bus after EVT_EDGE. -/
theorem State.decode_edgeOut (s : State) : decode (.ev9 s.edgeOut.ev) =
    .ok (if s.edgeOut.ackBtn = true ∧ s.btnLvl = true then .bump s.cfg.bumpAmount else .noop) := by
  rw [State.edgeOut_ev, decode_encodeEv9, apply_ite Event.toInstr]
  rfl

/-- EVT_EDGE alone drives its wires, and leaves the capture bit or, acknowledged, the transition of the cycle. -/
theorem exec_evtEdge (s : State) : exec .evtEdge s = .next
    ((s.driveEvent s.edgeOut).setBtnCap (if s.edgeOut.ackBtn then s.trans else s.btnCap)) :=
  congrArg Host.Outcome.next ((s.driveEvent s.edgeOut).ackCapture_eq s.edgeOut.ackBtn)

/-- Settles O15: the two wires and the bit that exec of EVT_EDGE leaves. -/
theorem edgeEventAcknowledgesWhateverTheLevel : Obligations.EdgeEventAcknowledgesWhateverTheLevel := by
  refine fun s => ⟨_, _, _, exec_evtEdge s, ?_, s.decode_edgeOut, fun hack => ?_, fun hack => ?_⟩
  · rw [State.edgeOut_ackBtn, Bool.and_eq_true, State.active_eq_true_iff, and_assoc]
  · rw [hack]; rfl
  · rw [hack]; rfl

/-- In edge mode the cycle derives the event of EVT_EDGE (R120). -/
theorem State.event_eq_edgeOut {s : State} (hm : s.cfg.inputMode = .edge) : s.event = s.edgeOut := by
  cases h : s.active
  · simp [State.event_of_inactive h, State.edgeOut, h]
  · simp [State.event_of_edge h hm, State.edgeOut, h]

/-! ### Cycles in edge mode with the line steady (R114) -/

/-- A line that stays at its sample makes no transition. -/
theorem State.trans_of_steady {s : State} (h : s.inputs.btnRaw = s.btnLvl) : s.trans = false := by
  rw [State.trans, h, recogniseEdge_steady]

/-- What a cycle without reset leaves in edge mode when the line is steady: the sample as it was, the capture bit unless
the core or the host acknowledges it, and on the bus the event of EVT_EDGE. -/
theorem exists_step_of_steady_edge {s : State} (hm : s.cfg.inputMode = .edge) (hr : s.inputs.rst = false)
    (hsteady : s.inputs.btnRaw = s.btnLvl) :
    ∃ t, step s = .next t ∧ t.cfg = s.cfg ∧ t.trace = s.trace.tail ∧ t.btnLvl = s.btnLvl ∧
      t.btnCap = captureCell false s.btnCap (s.edgeOut.ackBtn || s.hostAckBtn) ∧ t.wires.ev = s.edgeOut.ev := by
  refine ⟨_, step_run s (Params.refusedPair_of_edge hm) hr, rfl, rfl, hsteady, ?_, ?_⟩
  · rw [← State.trans_of_steady hsteady, ← State.event_eq_edgeOut hm]
    rfl
  · rw [← State.event_eq_edgeOut hm]
    rfl

/-- Settles O18: the core acknowledges the edge it finds, and no transition sets the bit again. -/
theorem oneCapturedEdgeGivesAtMostOneBump : Obligations.OneCapturedEdgeGivesAtMostOneBump := by
  intro s hm hr hen hrun hcap hsteady
  have hack : s.edgeOut.ackBtn = true := by
    rw [State.edgeOut_ackBtn, s.active_eq_true_iff.mpr ⟨hen, hrun⟩, hcap, Bool.and_self]
  obtain ⟨t, hstep, -, -, -, hbit, hev⟩ := exists_step_of_steady_edge hm hr hsteady
  refine ⟨t, hstep, ?_, ?_⟩
  · rw [hbit, hack, Bool.true_or, captureCell_ack]
  · simp only [hev, State.decode_edgeOut, hack, true_and]

/-- Edge mode with no edge captured, and none to come in the next `n` cycles: there the line stays at its sample, and no
reset moves the sample. -/
structure State.QuietFor (s : State) (n : Nat) : Prop where
  edgeMode : s.cfg.inputMode = .edge
  clear    : s.btnCap = false
  length   : n ≤ s.trace.length
  steady   : ∀ i ∈ s.trace.take n, i.rst = false ∧ i.btnRaw = s.btnLvl

/-- One of the quiet cycles: no event, and the remaining ones stay quiet. -/
theorem State.QuietFor.exists_step {s : State} {n : Nat} (h : s.QuietFor (n + 1)) :
    ∃ t, step s = .next t ∧ t.QuietFor n ∧ t.btnLvl = s.btnLvl ∧ decode (.ev9 t.wires.ev) = .ok .noop := by
  obtain ⟨hm, hclear, hlength, hinputs⟩ := h
  obtain ⟨i, rest, htrace⟩ := List.exists_cons_of_length_pos (Nat.zero_lt_of_lt hlength)
  have hi : s.inputs = i := by simp only [State.inputs, htrace]
  rw [htrace] at hlength hinputs
  obtain ⟨⟨hr, hsteady⟩, hrest⟩ := List.forall_mem_cons.mp hinputs
  rw [← hi] at hr hsteady
  obtain ⟨t, hstep, hcfg, htail, hlvl, hbit, hev⟩ := exists_step_of_steady_edge hm hr hsteady
  have htail : t.trace = rest := by rw [htail, htrace, List.tail_cons]
  have hnoack : s.edgeOut.ackBtn = false := by rw [State.edgeOut_ackBtn, hclear, Bool.and_false]
  refine ⟨t, hstep, ⟨?_, ?_, ?_, ?_⟩, hlvl, ?_⟩
  · rw [hcfg, hm]
  · rw [hbit, hclear, captureCell_idle]
  · rw [htail]
    exact Nat.le_of_succ_le_succ hlength
  · rw [htail, hlvl]
    exact hrest
  · simp [hev, State.decode_edgeOut, hnoack]

/-- The last of any number of quiet cycles leaves the bit clear, the sample as it was, and no event on the bus. -/
theorem State.QuietFor.exists_run {k : Nat} {s : State} (h : s.QuietFor (k + 1)) :
    ∃ t : State, Sys2Proof.core.run (k + 1) s = .next t ∧ t.btnCap = false ∧ t.btnLvl = s.btnLvl ∧
      decode (.ev9 t.wires.ev) = .ok .noop := by
  induction k generalizing s with
  | zero =>
    obtain ⟨t, hstep, hquiet, hlvl, hev⟩ := h.exists_step
    exact ⟨t, core_run_succ 0 hstep, hquiet.clear, hlvl, hev⟩
  | succ k ih =>
    obtain ⟨u, hstep, hquiet, hlvl, -⟩ := h.exists_step
    obtain ⟨t, hrun, hclear, hlvl', hev⟩ := ih hquiet
    exact ⟨t, (core_run_succ (k + 1) hstep).trans hrun, hclear, hlvl'.trans hlvl, hev⟩

/-- Settles O17, by induction on the number of cycles. -/
theorem steadyLineGivesNoFurtherEvent : Obligations.SteadyLineGivesNoFurtherEvent :=
  fun _ _ hm hclear hlength hsteady => State.QuietFor.exists_run ⟨hm, hclear, hlength, hsteady⟩

/-! ### EVT_LEVEL (R110, R111) -/

/-- What EVT_LEVEL drives in the present cycle. -/
def State.levelOut (s : State) : EventOut := if s.active then evtLevel s.cfg s.swLvl s.btnLvl else .idle

/-- It never acknowledges. -/
theorem State.levelOut_ackBtn (s : State) : s.levelOut.ackBtn = false := by
  cases h : s.active
  · simp [State.levelOut, h]
  · simp [State.levelOut, h]

/-- EVT_LEVEL alone drives its two wires. -/
theorem exec_evtLevel (s : State) : exec .evtLevel s =
    .next { s with wires := { s.wires with ev := s.levelOut.ev, ackBtn := false } } := by
  rw [← s.levelOut_ackBtn]
  rfl

/-- The event of the first matching row (R110, R111): exit, then the field select with its value, then `e`, which the
button decides. -/
def rowEvent (ex : Bool) (sel : BitVec 2) (v : Payload) (e : Event) : Event :=
  if ex then .exit else if sel = 1 then .setSec v else if sel = 2 then .setMin v else if sel = 3 then .setHrs v else e

/-- EVT_LEVEL reads the row's three operands from the switch word. -/
theorem levelEvent_eq_rowEvent (c : Params) (w : SW10) (b : Bool) : levelEvent c w b =
    rowEvent (exitField c w) (selField c w) (valField c w) (if b then .bump c.bumpAmount else .noop) := rfl

/-- The operation of the first matching row. -/
theorem toInstr_rowEvent (ex : Bool) (sel : BitVec 2) (v : Payload) (e : Event) : (rowEvent ex sel v e).toInstr =
    if ex then .exit else if sel = 1 then .setSec v else if sel = 2 then .setMin v else if sel = 3 then .setHrs v
    else e.toInstr := by
  simp only [rowEvent, apply_ite Event.toInstr]
  rfl

/-- The operation of the button's row. -/
theorem toInstr_bump_or_noop (b : Bool) (n : Payload) :
    Event.toInstr (if b then .bump n else .noop) = if b then .bump n else .noop := by
  cases b <;> rfl

/-- The operation on the bus after EVT_LEVEL. -/
theorem State.decode_levelOut (s : State) : decode (.ev9 s.levelOut.ev) = .ok
    (if s.inputs.dispatchEn = false ∨ s.halted = true then .noop
     else (levelEvent s.cfg s.swLvl s.btnLvl).toInstr) := by
  simp only [← State.active_eq_false_iff]
  cases h : s.active
  · simp [State.levelOut, h, Event.toInstr]
  · simp [State.levelOut, h]

/-- A value of the select bits, in numbers. -/
theorem selField_eq_iff (c : Params) (w : SW10) (k : BitVec 2) :
    selField c w = k ↔ w.toNat / 2 ^ c.selLsb % 4 = k.toNat := by
  rw [← BitVec.toNat_inj, toNat_selField]

/-- The value bits as the number they are. -/
theorem valField_eq_ofNat (c : Params) (w : SW10) : valField c w = BitVec.ofNat 6 (w.toNat / 2 ^ c.valLsb % 64) := by
  rw [← toNat_valField, BitVec.ofNat_toNat, BitVec.setWidth_eq]

/-! ### The switch word at the positions of R62 -/

/-- The switch word of four fields at the positions of R62: select, exit, an ignored bit and value. -/
def switchOf (sel : BitVec 2) (ex ign : Bool) (v : Payload) : SW10 :=
  sel ++ BitVec.ofBool ex ++ BitVec.ofBool ign ++ v

/-- The number such a word is. -/
theorem toNat_switchOf (sel : BitVec 2) (ex ign : Bool) (v : Payload) :
    (switchOf sel ex ign v).toNat = ((sel.toNat * 2 + ex.toNat) * 2 + ign.toNat) * 64 + v.toNat := by
  have h : (switchOf sel ex ign v).toNat =
      (sel ++ BitVec.ofBool ex ++ BitVec.ofBool ign ++ v : BitVec (2 + 1 + 1 + 6)).toNat := rfl
  simp only [h, toNat_append_add, BitVec.toNat_ofBool]
  norm_num

section
variable {c : Params} (hc : c.defaultLayout = true) (sel : BitVec 2) (ex ign : Bool) (v : Payload)
include hc

/-- At the default positions the select bits are the select field. -/
theorem selField_switchOf : selField c (switchOf sel ex ign v) = sel := by
  obtain ⟨-, hsel, -⟩ := c.defaultLayout_iff.mp hc
  have := ex.toNat_le
  have := ign.toNat_le
  rw [selField_eq_iff, hsel, toNat_switchOf]
  omega

/-- At the default positions the value bits are the value field. -/
theorem valField_switchOf : valField c (switchOf sel ex ign v) = v := by
  obtain ⟨hval, -, -⟩ := c.defaultLayout_iff.mp hc
  apply BitVec.eq_of_toNat_eq
  rw [toNat_valField, hval, toNat_switchOf]
  omega

/-- At the default positions the exit bit is the exit field. -/
theorem exitField_switchOf : exitField c (switchOf sel ex ign v) = ex := by
  obtain ⟨-, -, hexit⟩ := c.defaultLayout_iff.mp hc
  have hign := ign.toNat_le
  have hv := v.isLt
  have hdigit : (switchOf sel ex ign v).toNat / 2 ^ 7 % 2 = ex.toNat := by
    have := ex.toNat_le
    rw [toNat_switchOf]
    omega
  rw [exitField_eq, hexit, hdigit]
  cases ex <;> rfl

/-- The event of EVT_LEVEL by the fields of a switch word at the default positions. -/
theorem levelEvent_switchOf (b : Bool) : levelEvent c (switchOf sel ex ign v) b =
    rowEvent ex sel v (if b then .bump c.bumpAmount else .noop) := by
  rw [levelEvent_eq_rowEvent, exitField_switchOf hc, selField_switchOf hc, valField_switchOf hc]

end

/-- A mask acts on the fields. -/
theorem switchOf_and (sel sel' : BitVec 2) (ex ex' ign ign' : Bool) (v v' : Payload) :
    switchOf sel ex ign v &&& switchOf sel' ex' ign' v' =
      switchOf (sel &&& sel') (ex && ex') (ign && ign') (v &&& v') := by
  have h : switchOf sel ex ign v &&& switchOf sel' ex' ign' v' =
      ((sel ++ BitVec.ofBool ex ++ BitVec.ofBool ign ++ v) &&&
        (sel' ++ BitVec.ofBool ex' ++ BitVec.ofBool ign' ++ v') : BitVec (2 + 1 + 1 + 6)) := rfl
  rw [h]
  simp only [BitVec.and_append, BitVec.ofBool_and_ofBool]
  rfl

/-- The word of the exit row matches when the exit field is 1 (R73). -/
theorem switchOf_matches_exit (sel : BitVec 2) (ex ign : Bool) (v : Payload) :
    switchOf sel ex ign v &&& 0b0010000000#10 = 0b0010000000#10 ↔ ex = true := by
  have hmask : 0b0010000000#10 = switchOf 0#2 true false 0#6 := rfl
  have hcut : switchOf sel ex ign v &&& 0b0010000000#10 = switchOf 0#2 ex false 0#6 := by
    rw [hmask, switchOf_and, BitVec.and_zero, Bool.and_true, Bool.and_false, BitVec.and_zero]
  rw [hcut, hmask]
  constructor
  · intro h
    simpa only [exitField_switchOf (c := .default) rfl] using congrArg (exitField .default) h
  · rintro rfl
    rfl

/-- The word of a select row matches when the exit field is 0 and the select field is the row's (R73). -/
theorem switchOf_matches_select (sel k : BitVec 2) (ex ign : Bool) (v : Payload) :
    switchOf sel ex ign v &&& 0b1110000000#10 = switchOf k false false 0 ↔ ex = false ∧ sel = k := by
  have hmask : 0b1110000000#10 = switchOf (BitVec.allOnes 2) true false 0#6 := rfl
  have hcut : switchOf sel ex ign v &&& 0b1110000000#10 = switchOf sel ex false 0#6 := by
    rw [hmask, switchOf_and, BitVec.and_allOnes, Bool.and_true, Bool.and_false, BitVec.and_zero]
  rw [hcut]
  constructor
  · intro h
    have hex := congrArg (exitField .default) h
    have hsel := congrArg (selField .default) h
    rw [exitField_switchOf rfl, exitField_switchOf rfl] at hex
    rw [selField_switchOf rfl, selField_switchOf rfl] at hsel
    exact ⟨hex, hsel⟩
  · rintro ⟨rfl, rfl⟩
    rfl

/-- The rows of R73 are those of EVT_LEVEL: the last of them matches the words that no other one matches. -/
theorem decodeSw10_switchOf (sel : BitVec 2) (ex ign : Bool) (v : Payload) (b : Bool) (n : Payload) :
    decodeSw10 (switchOf sel ex ign v) b n = rowEvent ex sel v (if b then .bump n else .noop) := by
  have hval : swVal (switchOf sel ex ign v) = v := valField_switchOf (c := .default) rfl sel ex ign v
  have hsec : 0b0100000000#10 = switchOf 1 false false 0 := rfl
  have hmin : 0b1000000000#10 = switchOf 2 false false 0 := rfl
  have hhrs : 0b1100000000#10 = switchOf 3 false false 0 := rfl
  have hbtn : 0b0000000000#10 = switchOf 0 false false 0 := rfl
  have hsel : ∀ k : BitVec 2, k = 0 ∨ k = 1 ∨ k = 2 ∨ k = 3 := by decide
  simp only [decodeSw10, sw10Rows, firstMatch, switchOf_matches_exit, hval]
  rw [hsec, hmin, hhrs, hbtn]
  simp only [switchOf_matches_select]
  cases ex
  · rcases hsel sel with rfl | rfl | rfl | rfl <;> rfl
  · rfl

/-- Settles O16: the first matching row, with the fields in numbers at every layout, and as they are written in the word
at the default one, where the decoder's rows give the same event. -/
theorem levelEventFollowsTheSwitchWord : Obligations.LevelEventFollowsTheSwitchWord := by
  refine ⟨fun s _ => ⟨_, exec_evtLevel s, ?_⟩, fun s sel ex ign v hc hword => ?_⟩
  · rw [State.decode_levelOut, levelEvent_eq_rowEvent, toInstr_rowEvent, toInstr_bump_or_noop, valField_eq_ofNat]
    simp only [exitField_eq, decide_eq_true_eq, selField_eq_iff]
    rfl
  · have hword : s.swLvl = switchOf sel ex ign v := hword
    refine ⟨_, exec_evtLevel s, ?_, ?_⟩
    · rw [State.decode_levelOut, hword, levelEvent_switchOf hc, toInstr_rowEvent, toInstr_bump_or_noop]
    · rw [hword, levelEvent_switchOf hc, decodeSw10_switchOf]

end Sys2Proof.Machine

/-! PROOFS. The clock state (42_clock_state_mux.md): each event and each part of the periodic path performed alone, and
the cycles that run them. -/

namespace Sys2Proof.Machine

/-! ### NOOP and EXIT (R123, R129) -/

/-- An event that leaves the halt flag writes time and hours alone. -/
theorem State.mapClock_eq_setTime {s : State} {f : Clock → Clock} (hrun : s.halted = false)
    (hkeeps : (f s.clock).halted = s.halted) :
    s.mapClock f = s.setTime (f s.clock).packedTime (f s.clock).hours := by
  rw [State.mapClock_of_running f hrun, hkeeps]
  rfl

/-- EXIT sets the halt flag, which a halted core has set already. -/
theorem State.mapClock_exit (s : State) : s.mapClock Clock.exit = s.setHalted true := by
  cases h : s.halted
  · rw [State.mapClock_of_running _ h]
    rfl
  · rw [State.mapClock_of_halted _ h, ← h]
    rfl

/-- Settles O29: EXIT is the update of the halt flag alone. -/
theorem noopChangesNothingAndExitHalts : Obligations.NoopChangesNothingAndExitHalts :=
  fun s => ⟨rfl, congrArg Host.Outcome.next s.mapClock_exit⟩

/-! ### The events that set a field (R124 to R126) -/

/-- A switch word without the exit bit selects the event of its select field (R73). -/
theorem decode_sw10_switchOf (sel : BitVec 2) (ign b : Bool) (v n : Payload) :
    decode (.sw10 (switchOf sel false ign v) b n) =
      .ok (rowEvent false sel v (if b then .bump n else .noop)).toInstr :=
  decode_sw10_of_event (decodeSw10_switchOf sel false ign v b n)

/-- The high byte of two bytes put together. -/
theorem minByte_append (x y : BitVec 8) : minByte (x ++ y) = x := by
  apply BitVec.eq_of_toNat_eq
  rw [minByte, toNat_slice, toNat_bytes]
  omega

/-- The low byte of two bytes put together. -/
theorem secByte_append (x y : BitVec 8) : secByte (x ++ y) = y := extract_low_append x y

/-- The bytes of a valid word are `BCD2` of its minutes and of its seconds. -/
theorem bytes_of_validPT {p : PT16} (h : validPT p = true) :
    minByte p = bcd2 (minutesOf p % 60) ∧ secByte p = bcd2 (secondsOf p % 60) := by
  have henc := enc_minutesOf_secondsOf h
  exact ⟨(congrArg minByte henc).symm.trans (minByte_append _ _),
    (congrArg secByte henc).symm.trans (secByte_append _ _)⟩

/-- SET_SEC of a valid time is ENC of the old minutes and the new seconds. -/
theorem Clock.setSec_of_validPT (v : Payload) {c : Clock} (h : validPT c.packedTime = true) :
    (Clock.setSec v c).packedTime = enc (minutesOf c.packedTime) v.toNat := by
  simp only [Clock.setSec, enc, (bytes_of_validPT h).1]

/-- SET_MIN of a valid time is ENC of the new minutes and the old seconds. -/
theorem Clock.setMin_of_validPT (v : Payload) {c : Clock} (h : validPT c.packedTime = true) :
    (Clock.setMin v c).packedTime = enc v.toNat (secondsOf c.packedTime) := by
  simp only [Clock.setMin, enc, (bytes_of_validPT h).2]

/-- SET_SEC of a running core. -/
theorem exec_setSec_of_running (v : Payload) {s : State} (h : s.halted = false) :
    exec (.setSec v) s = .next (s.setTime (Clock.setSec v s.clock).packedTime s.hours) :=
  congrArg Host.Outcome.next (State.mapClock_eq_setTime h rfl)

/-- SET_MIN of a running core. -/
theorem exec_setMin_of_running (v : Payload) {s : State} (h : s.halted = false) :
    exec (.setMin v) s = .next (s.setTime (Clock.setMin v s.clock).packedTime s.hours) :=
  congrArg Host.Outcome.next (State.mapClock_eq_setTime h rfl)

/-- SET_HRS of a running core. -/
theorem exec_setHrs_of_running (v : Payload) {s : State} (h : s.halted = false) :
    exec (.setHrs v) s = .next (s.setTime s.packedTime (Clock.setHrs v s.clock).hours) :=
  congrArg Host.Outcome.next (State.mapClock_eq_setTime h rfl)

/-- The two digits of a value below 60 fit their nibbles. -/
theorem toNat_digits_mod_60 (n : Nat) :
    (BitVec.ofNat 4 (n % 60 / 10)).toNat = n % 60 / 10 ∧ (BitVec.ofNat 4 (n % 60 % 10)).toNat = n % 60 % 10 :=
  ⟨toNat_digit (by omega), toNat_digit (by omega)⟩

/-- Settles O30: the bytes and digits of the word SET_SEC writes. -/
theorem setSecondsReplacesTheLowByte : Obligations.SetSecondsReplacesTheLowByte := by
  refine fun v => ⟨everyEventWordDecodesByItsKind 1 v, fun ign b n => decode_sw10_switchOf 1 ign b v n,
    fun s hrun => ?_⟩
  obtain ⟨-, -, htens, hones⟩ := Clock.setSec_digits v s.clock
  obtain ⟨htensNat, honesNat⟩ := toNat_digits_mod_60 v.toNat
  exact ⟨_, exec_setSec_of_running v hrun, minByte_append _ _, (congrArg BitVec.toNat htens).trans htensNat,
    (congrArg BitVec.toNat hones).trans honesNat, Clock.setSec_of_validPT (c := s.clock) v⟩

/-- Settles O31: the bytes and digits of the word SET_MIN writes. -/
theorem setMinutesReplacesTheHighByte : Obligations.SetMinutesReplacesTheHighByte := by
  refine fun v => ⟨everyEventWordDecodesByItsKind 2 v, fun ign b n => decode_sw10_switchOf 2 ign b v n,
    fun s hrun => ?_⟩
  obtain ⟨htens, hones, -, -⟩ := Clock.setMin_digits v s.clock
  obtain ⟨htensNat, honesNat⟩ := toNat_digits_mod_60 v.toNat
  exact ⟨_, exec_setMin_of_running v hrun, secByte_append _ _, (congrArg BitVec.toNat htens).trans htensNat,
    (congrArg BitVec.toNat hones).trans honesNat, Clock.setMin_of_validPT (c := s.clock) v⟩

/-- Settles O32: a six-bit value lies below 100. -/
theorem setHoursWritesTheValueItself : Obligations.SetHoursWritesTheValueItself := by
  refine fun v => ⟨everyEventWordDecodesByItsKind 3 v, fun ign b n => decode_sw10_switchOf 3 ign b v n,
    fun s hrun => ⟨_, exec_setHrs_of_running v hrun, toNat_hours_mod v.toNat, ?_⟩⟩
  have hv := v.isLt
  rw [Clock.setHrs, toNat_hours_mod]
  omega

/-! ### ADVANCE and HOUR_OVF (R131, R132) -/

/-- The hours after the carry, for either value of it. -/
theorem toNat_hourCarry (h : Hours) (ovf : Bool) :
    (hourCarry h ovf).toNat = if ovf then (h.toNat + 1) % 100 else h.toNat := by
  cases ovf
  · rfl
  · exact hourCarry_toNat h

/-- ADVANCE of a valid time is valid. -/
theorem advance_packedTime_valid {p : PT16} (h : Hours) (hp : validPT p = true) :
    validPT (advance p h).packedTime = true :=
  inc_keeps_valid hp

/-- ADVANCE of a valid time is one second later, modulo an hour. -/
theorem time_advance {p : PT16} (h : Hours) (hp : validPT p = true) :
    60 * minutesOf (advance p h).packedTime + secondsOf (advance p h).packedTime =
      (60 * minutesOf p + secondsOf p + 1) % 3600 :=
  time_inc hp

/-- ADVANCE carries into the hours from the last time of the hour only. -/
theorem advance_hours {p : PT16} (h : Hours) (hp : validPT p = true) :
    (advance p h).hours = hourCarry h (decide (p = 0x5959#16)) := by
  rw [advance, inc_hourOvf hp]

/-- The hours after ADVANCE of a valid time, in numbers. -/
theorem toNat_advance_hours {p : PT16} (h : Hours) (hp : validPT p = true) :
    (advance p h).hours.toNat = if p = 0x5959#16 then (h.toNat + 1) % 100 else h.toNat := by
  simp only [advance_hours h hp, toNat_hourCarry, decide_eq_true_eq]

/-- The last word of the hour by its time. -/
theorem eq_last_iff_time {p : PT16} (hp : validPT p = true) :
    p = 0x5959#16 ↔ 60 * minutesOf p + secondsOf p = 3599 :=
  eq_iff_time hp (by decide)

/-- Settles O39: the time one second later, and the carry from the last word of the hour. -/
theorem advanceCarriesIntoTheHours : Obligations.AdvanceCarriesIntoTheHours := by
  refine fun s hrun hp => ⟨(advance s.packedTime s.hours).packedTime, (advance s.packedTime s.hours).hours,
    execAdvance_of_running hrun, advance_packedTime_valid s.hours hp, time_advance s.hours hp, fun hlast => ?_,
    fun hother => ?_⟩
  · rw [toNat_advance_hours s.hours hp, if_pos hlast]
  · rw [advance_hours s.hours hp, decide_eq_false hother, hourCarry_false]

/-- Settles O40: 99 and one is 0 modulo 100. -/
theorem hourCarryWrapsAt100 : Obligations.HourCarryWrapsAt100 := by
  refine fun ovf s hrun => ⟨_, execHourOvf_of_running ovf hrun, ?_, ?_⟩
  · rintro rfl
    refine ⟨hourCarry_toNat s.hours, fun h99 => ?_⟩
    rw [h99]
    rfl
  · rintro rfl
    exact hourCarry_false s.hours

/-! ### BUMP (R127, R128) -/

/-- BUMP on a word that decodes gives a valid word, the seconds in it modulo an hour, and one hour for each hour they
fill, modulo 100. -/
theorem Clock.bump_spec (n : Nat) {c : Clock} (h : digitsOk c.packedTime = true) :
    validPT (Clock.bump n c).packedTime = true ∧
      60 * minutesOf (Clock.bump n c).packedTime + secondsOf (Clock.bump n c).packedTime =
        (60 * minutesOf c.packedTime + secondsOf c.packedTime + n) % 3600 ∧
      (Clock.bump n c).hours.toNat =
        (c.hours.toNat + (60 * minutesOf c.packedTime + secondsOf c.packedTime + n) / 3600) % 100 := by
  rw [Clock.bump_of_digitsOk n h]
  refine ⟨validPT_enc _ _, ?_, toNat_hours_mod _⟩
  rw [minutesOf_enc, secondsOf_enc]
  omega

/-- BUMP of a running core. -/
theorem exec_bump_of_running (n : Payload) {s : State} (h : s.halted = false) :
    exec (.bump n) s =
      .next (s.setTime (Clock.bump n.toNat s.clock).packedTime (Clock.bump n.toNat s.clock).hours) :=
  congrArg Host.Outcome.next (State.mapClock_eq_setTime h (Clock.bump_halted _ _))

/-- Settles O33: a word decodes when its digits are decimal. -/
theorem bumpAddsSecondsAndCarriesHours : Obligations.BumpAddsSecondsAndCarriesHours := by
  refine fun n s hrun => ⟨fun hok => ?_, fun hfails => ?_⟩
  · rw [dec_ok] at hok
    exact ⟨_, _, exec_bump_of_running n hrun, Clock.bump_spec n.toNat (c := s.clock) hok⟩
  · rw [dec_ok] at hfails
    rw [exec_bump_of_running n hrun, Clock.bump_of_not_digitsOk n.toNat (c := s.clock) hfails]
    rfl

/-- What ADVANCE does to time and hours. -/
def advanceTime (x : PT16 × Hours) : PT16 × Hours := ((advance x.1 x.2).packedTime, (advance x.1 x.2).hours)

/-- The time and the hours of a clock state. -/
def Clock.time (c : Clock) : PT16 × Hours := (c.packedTime, c.hours)

/-- Times and hours are told apart by their numbers when the times are valid. -/
theorem time_ext {x y : PT16 × Hours} (hx : validPT x.1 = true) (hy : validPT y.1 = true)
    (htime : 60 * minutesOf x.1 + secondsOf x.1 = 60 * minutesOf y.1 + secondsOf y.1)
    (hhours : x.2.toNat = y.2.toNat) : x = y :=
  Prod.ext (eq_of_time hx hy htime) (BitVec.eq_of_toNat_eq hhours)

section
variable {c : Clock} (hp : validPT c.packedTime = true)
include hp

/-- BUMP by nothing leaves hours of at most 99. -/
theorem Clock.bump_zero_time (hh : c.hours.toNat ≤ 99) : (Clock.bump 0 c).time = c.time := by
  obtain ⟨hvalid, htime, hhours⟩ := Clock.bump_spec 0 (digitsOk_of_validPT hp)
  have hlt := fields_lt hp
  refine time_ext hvalid hp ?_ ?_ <;> simp only [Clock.time]
  · rw [htime]
    omega
  · rw [hhours]
    omega

/-- One more second of BUMP is one more ADVANCE: the next hour boundary is the last word of the hour. -/
theorem Clock.bump_succ_time (n : Nat) : (Clock.bump (n + 1) c).time = advanceTime (Clock.bump n c).time := by
  obtain ⟨hvalid, htime, hhours⟩ := Clock.bump_spec n (digitsOk_of_validPT hp)
  obtain ⟨hvalid', htime', hhours'⟩ := Clock.bump_spec (n + 1) (digitsOk_of_validPT hp)
  have hlater := time_advance (Clock.bump n c).hours hvalid
  have hcarry := toNat_advance_hours (Clock.bump n c).hours hvalid
  simp only [eq_last_iff_time hvalid, htime, hhours] at hcarry
  refine time_ext hvalid' (advance_packedTime_valid (Clock.bump n c).hours hvalid) ?_ ?_ <;>
    simp only [Clock.time, advanceTime]
  · rw [htime', hlater, htime]
    omega
  · rw [hhours', hcarry]
    split
    · omega
    · omega

/-- `n` advances are one BUMP by `n`. -/
theorem iterate_advanceTime (hh : c.hours.toNat ≤ 99) (n : Nat) :
    advanceTime^[n] c.time = (Clock.bump n c).time := by
  induction n with
  | zero => exact (Clock.bump_zero_time hp hh).symm
  | succ n ih => rw [Function.iterate_succ_apply', ih, Clock.bump_succ_time hp]

end

/-- Settles O34, by induction on the number of seconds. -/
theorem bumpIsIteratedAdvance : Obligations.BumpIsIteratedAdvance :=
  fun n _ hp hh => iterate_advanceTime hp hh n

/-! ### TICK (R130) -/

/-- What TICK computes from the registers. -/
def State.tickOut (s : State) : TickOut := tick s.cfg.nTicks s.packedTime s.hours s.subTickCount

/-- TICK of a running core: its result, the timeout of the cycle in the acknowledged bit, and three wires. -/
theorem exec_tick_of_running {s : State} (h : s.halted = false) :
    exec .tick s = .next
      { s with
        packedTime := s.tickOut.packedTime
        hours := s.tickOut.hours
        subTickCount := s.tickOut.subTickCount
        tickPending := s.inputs.tmrTimeout
        wires := { s.wires with ackTick := true, inc := inc s.packedTime,
                                refresh := decide (s.cfg.nTicks ≤ s.subTickCount.toNat + 1) } } := by
  rw [← tick_refresh s.cfg.nTicks s.packedTime s.hours, ← captureCell_ack s.inputs.tmrTimeout s.tickPending]
  exact execTick_of_running h

/-- Settles O38: the tick below the threshold, where the counter still fits its four bits, and at it. -/
theorem tickCountsOrAdvances : Obligations.TickCountsOrAdvances := by
  refine fun s hrun hn => ⟨_, exec_tick_of_running hrun, rfl, fun hbelow => ?_, fun hreached => ?_⟩
  · obtain ⟨-, hmax⟩ := s.cfg.nTicksOk_iff.mp hn
    rw [State.tickOut, tick_of_lt hbelow]
    exact ⟨rfl, rfl, toNat_digit (by omega)⟩
  · rw [State.tickOut, tick_of_le hreached]
    exact ⟨rfl, rfl, toNat_advance_hours s.hours⟩

/-! ### The cycle and its outputs (R120, R135, R136) -/

/-- Settles O19: the host's accesses change neither the reset line nor what RESET and the cycle of the core compute. -/
theorem stepIsTheCycleOfTheCore : Obligations.StepIsTheCycleOfTheCore := by
  intro s hc
  cases hr : s.inputs.rst
  · exact ⟨_, _, execStep_run s.hostPhase hc hr, execStep_run s hc hr, s.hostPhase_runCycle_core, step_run s hc hr⟩
  · exact ⟨_, _, execStep_reset s.hostPhase hc hr, execStep_reset s hc hr, rfl, step_reset s hc hr⟩

/-- The wire `refresh` of a cycle without reset. -/
theorem State.phase2_refresh_eq_true_iff (s : State) :
    s.phase2.refresh = true ↔ s.serveTick = true ∧ s.cfg.nTicks ≤ s.subTickCount.toNat + 1 := by
  rw [State.phase2_refresh, Bool.and_eq_true, decide_eq_true_eq]

/-- Settles O41: a reset cycle drives the wire quiet, and the other cycles drive it by the tick they serve. -/
theorem refreshMarksExactlyTheAdvances : Obligations.RefreshMarksExactlyTheAdvances := by
  intro s t h
  obtain ⟨-, ⟨hr, rfl⟩ | ⟨hr, rfl⟩⟩ := execStep_next h
  · simp [State.refresh, Wires.quiet, hr]
  · simp [State.refresh, State.cycleWires, State.phase2_refresh_eq_true_iff, hr]

/-- Settles O42, by the dispatch mode. -/
theorem interruptRequestOutput : Obligations.InterruptRequestOutput := by
  intro s
  cases hm : s.cfg.dispatchMode
  · simp [State.irq, hm]
  · simp [State.irq, hm]

/-! ### Cycles that are no dispatch (R12, R166) -/

/-- A cycle that is no dispatch holds the clock state and the counter. -/
theorem exists_step_of_inactive {s : State} (hc : s.cfg.refusedPair = false) (hr : s.inputs.rst = false)
    (h : s.active = false) :
    ∃ t, step s = .next t ∧ t.cfg = s.cfg ∧ t.trace = s.trace.tail ∧ t.clock = s.clock ∧
      t.subTickCount = s.subTickCount :=
  ⟨_, step_run s hc hr, rfl, rfl, State.runCycle_clock_of_inactive h,
    State.runCycle_subTickCount_of_not_serveTick (State.serveTick_of_inactive h)⟩

/-- Settles O22: the idle event, no tick, and a cycle that holds the clock state. -/
theorem inactiveCycleHoldsTheClockState : Obligations.InactiveCycleHoldsTheClockState := by
  intro s hc hr hinactive
  have hidle : s.active = false := s.active_eq_false_iff.mpr hinactive
  obtain ⟨t, hstep, -, -, hclock, hsub⟩ := exists_step_of_inactive hc hr hidle
  refine ⟨?_, ?_, State.serveTick_of_inactive hidle, t, hstep, congrArg Clock.packedTime hclock,
    congrArg Clock.hours hclock, hsub, congrArg Clock.halted hclock⟩
  · rw [State.event_of_inactive hidle]
    exact decode_encodeEv9 .noop
  · rw [State.event_of_inactive hidle]
    rfl

/-- What the next `n + 1` inputs of a trace have, the present ones have, and the next `n` of the cycle after. -/
theorem State.inputs_of_take {s : State} {n : Nat} {p : Inputs → Prop} (hlength : n + 1 ≤ s.trace.length)
    (h : ∀ i ∈ s.trace.take (n + 1), p i) :
    p s.inputs ∧ n ≤ s.trace.tail.length ∧ ∀ i ∈ s.trace.tail.take n, p i := by
  obtain ⟨i, rest, htrace⟩ := List.exists_cons_of_length_pos (Nat.zero_lt_of_lt hlength)
  have hi : s.inputs = i := by simp only [State.inputs, htrace]
  rw [htrace] at hlength h ⊢
  obtain ⟨hp, hrest⟩ := List.forall_mem_cons.mp h
  exact ⟨hi ▸ hp, Nat.le_of_succ_le_succ hlength, hrest⟩

/-- A halted core in a configuration that is not refused, with no reset in the next `n` cycles. -/
structure State.HaltedFor (s : State) (n : Nat) : Prop where
  allowed : s.cfg.refusedPair = false
  halted  : s.halted = true
  length  : n ≤ s.trace.length
  noReset : ∀ i ∈ s.trace.take n, i.rst = false

/-- One of the cycles without reset: the clock state holds, and the halted core goes on. -/
theorem State.HaltedFor.exists_step {s : State} {n : Nat} (h : s.HaltedFor (n + 1)) :
    ∃ t, step s = .next t ∧ t.HaltedFor n ∧ t.clock = s.clock ∧ t.subTickCount = s.subTickCount := by
  obtain ⟨hc, hhalted, hlength, hnoReset⟩ := h
  obtain ⟨hr, hlength', hnoReset'⟩ := State.inputs_of_take hlength hnoReset
  obtain ⟨t, hstep, hcfg, htrace, hclock, hsub⟩ := exists_step_of_inactive hc hr (State.active_of_halted hhalted)
  refine ⟨t, hstep, ⟨?_, ?_, ?_, ?_⟩, hclock, hsub⟩
  · rw [hcfg, hc]
  · exact (congrArg Clock.halted hclock).trans hhalted
  · rw [htrace]
    exact hlength'
  · rw [htrace]
    exact hnoReset'

/-- Any number of cycles without reset leaves the clock state of a halted core. -/
theorem State.HaltedFor.exists_run {k : Nat} {s : State} (h : s.HaltedFor k) :
    ∃ t : State, Sys2Proof.core.run k s = .next t ∧ t.clock = s.clock ∧ t.subTickCount = s.subTickCount := by
  induction k generalizing s with
  | zero => exact ⟨s, core_run_zero s, rfl, rfl⟩
  | succ k ih =>
    obtain ⟨u, hstep, hu, hclock, hsub⟩ := h.exists_step
    obtain ⟨t, hrun, hclock', hsub'⟩ := ih hu
    exact ⟨t, (core_run_succ k hstep).trans hrun, hclock'.trans hclock, hsub'.trans hsub⟩

/-- Settles O36, by induction on the number of cycles. -/
theorem haltIsForeverWithoutReset : Obligations.HaltIsForeverWithoutReset := by
  intro k s hc hhalted hlength hnoReset
  obtain ⟨t, hrun, hclock, hsub⟩ := State.HaltedFor.exists_run ⟨hc, hhalted, hlength, hnoReset⟩
  exact ⟨t, hrun, (congrArg Clock.halted hclock).trans hhalted, congrArg Clock.packedTime hclock,
    congrArg Clock.hours hclock, hsub⟩

/-! ### Cycles that serve no tick (R120, R121, D21) -/

/-- A cycle that serves no tick keeps a pending one, unless the host acknowledges it. -/
theorem State.runCycle_tickPending_of_not_serveTick {s : State} (hserve : s.serveTick = false)
    (hpending : s.tickPending = true) (hhost : s.hostAckTick = false) : s.runCycle.tickPending = true := by
  rw [State.runCycle_tickPending, captureCell_eq_true_iff, hserve, hhost]
  exact .inr ⟨hpending, rfl⟩

/-- An event that halts the core keeps the tick waiting. -/
theorem State.serveTick_of_phase1_halted {s : State} (h : s.phase1.halted = true) : s.serveTick = false := by
  simp [State.serveTick, h]

/-- In IRQ mode a captured edge keeps the tick waiting. -/
theorem State.serveTick_of_irq_edge {s : State} (hd : s.cfg.dispatchMode = .irq) (hcap : s.btnCap = true) :
    s.serveTick = false := by
  simp [State.serveTick, hd, hcap]

/-- Settles O37: the event EXIT writes the halt flag alone, and that keeps the tick waiting. -/
theorem exitLeavesThePendingTickUnserved : Obligations.ExitLeavesThePendingTickUnserved := by
  intro s hc hr _ _ hexit hpending hhost
  have hphase1 : s.phase1 = s.clock.exit := by
    rw [State.phase1, (decode_ev9_eq_exit_iff _).mp hexit]
    rfl
  have hserve : s.serveTick = false := State.serveTick_of_phase1_halted (congrArg Clock.halted hphase1)
  have hphase2 : s.phase2 = ⟨s.packedTime, s.hours, s.subTickCount, false⟩ := by
    rw [State.phase2_of_not_serveTick hserve, hphase1]
    rfl
  exact ⟨_, step_run s hc hr, congrArg Clock.halted hphase1, congrArg TickOut.packedTime hphase2,
    congrArg TickOut.hours hphase2, congrArg TickOut.subTickCount hphase2,
    State.runCycle_tickPending_of_not_serveTick hserve hpending hhost⟩

/-- Settles O23: the captured edge keeps the tick waiting, and a dispatch acknowledges it. -/
theorem interruptDispatchServesTheButtonFirst : Obligations.InterruptDispatchServesTheButtonFirst := by
  intro s hd hm hr hcap hpending hhost
  have hserve : s.serveTick = false := State.serveTick_of_irq_edge hd hcap
  have hack : s.event.ackBtn = true ↔ s.inputs.dispatchEn = true ∧ s.halted = false := by
    rw [State.event_eq_edgeOut hm, State.edgeOut_ackBtn, hcap, Bool.and_true, State.active_eq_true_iff]
  have hrefresh : s.phase2.refresh = false := by rw [State.phase2_of_not_serveTick hserve]
  exact ⟨_, step_run s (Params.refusedPair_of_edge hm) hr,
    State.runCycle_tickPending_of_not_serveTick hserve hpending hhost,
    State.runCycle_subTickCount_of_not_serveTick hserve, hrefresh, hack⟩

/-! ### Two dispatches in IRQ mode against one in POLL mode (R121) -/

/-- In edge mode without a captured edge the event changes nothing. -/
theorem State.phase1_of_edge_clear {s : State} (hm : s.cfg.inputMode = .edge) (hclear : s.btnCap = false) :
    s.phase1 = s.clock := by
  have hev : s.event.ev = encodeEv9 .noop := by
    rw [State.event_eq_edgeOut hm, State.edgeOut_ev, State.edgeOut_ackBtn, hclear]
    simp
  rw [State.phase1, hev, decodeEv9_encodeEv9]
  rfl

/-- A dispatch cycle in edge mode with the line at its sample, no timeout and no acknowledge of the timer's bit by the
host. -/
structure State.SteadyDispatch (s : State) : Prop where
  edgeMode  : s.cfg.inputMode = .edge
  noReset   : s.inputs.rst = false
  active    : s.active = true
  steady    : s.inputs.btnRaw = s.btnLvl
  noTimeout : s.inputs.tmrTimeout = false
  noHostAck : s.hostAckTick = false

/-- Such a dispatch leaves the capture bit clear, and the pending bit of a tick it does not serve. -/
theorem State.SteadyDispatch.exists_step {s : State} (h : s.SteadyDispatch) :
    ∃ t, step s = .next t ∧ t.cfg = s.cfg ∧ t.trace = s.trace.tail ∧
      t.core = ⟨s.phase2.packedTime, s.phase2.hours, s.phase2.subTickCount, s.halted, s.tickPending && !s.serveTick,
        false, s.btnLvl, s.inputs.swRaw⟩ := by
  obtain ⟨hm, hr, hactive, hsteady, htimeout, hhost⟩ := h
  have hhalted : s.runCycle.halted = s.halted := State.phase1_halted_of_edge hm
  have hpending : s.runCycle.tickPending = (s.tickPending && !s.serveTick) := by
    rw [State.runCycle_tickPending, htimeout, hhost, Bool.or_false]
    rfl
  have hcap : s.runCycle.btnCap = false := by
    rw [State.runCycle_btnCap, State.trans_of_steady hsteady, State.event_of_edge hactive hm, evtEdge_ackBtn]
    cases s.btnCap
    · rw [captureCell_idle]
    · rw [Bool.true_or, captureCell_ack]
  refine ⟨_, step_run s (Params.refusedPair_of_edge hm) hr, rfl, rfl, ?_⟩
  rw [State.nextCycle_core, State.hostPhase_runCycle_core, State.core, hhalted, hpending, hcap, State.runCycle_btnLvl,
    hsteady]
  rfl

/-- It serves a pending tick in POLL mode, and in IRQ mode when no edge is captured. -/
theorem State.SteadyDispatch.serveTick {s : State} (h : s.SteadyDispatch) (hpending : s.tickPending = true)
    (hfree : s.cfg.dispatchMode = .poll ∨ s.btnCap = false) : s.serveTick = true := by
  obtain ⟨-, hrun⟩ := s.active_eq_true_iff.mp h.active
  exact s.serveTick_eq_true_iff.mpr
    ⟨h.active, hpending, (State.phase1_halted_of_edge h.edgeMode).trans hrun, hfree⟩

/-- The registers of phase 1 with the button served and the tick waiting. -/
def State.coreAfterButton (s : State) : CoreRegs :=
  ⟨s.phase1.packedTime, s.phase1.hours, s.subTickCount, s.halted, true, false, s.btnLvl, s.inputs.swRaw⟩

/-- The first of the two dispatches in IRQ mode serves the button only. -/
theorem State.SteadyDispatch.exists_step_irq {s : State} (h : s.SteadyDispatch) (hd : s.cfg.dispatchMode = .irq)
    (hcap : s.btnCap = true) (hpending : s.tickPending = true) :
    ∃ t, step s = .next t ∧ t.cfg = s.cfg ∧ t.trace = s.trace.tail ∧ t.core = s.coreAfterButton := by
  have hserve := State.serveTick_of_irq_edge hd hcap
  obtain ⟨t, hstep, hcfg, htrace, hcore⟩ := h.exists_step
  rw [State.phase2_of_not_serveTick hserve, hserve, hpending] at hcore
  exact ⟨t, hstep, hcfg, htrace, hcore⟩

/-- A dispatch that serves the pending tick ends with the tick of phase 1, and no source waits. -/
theorem State.SteadyDispatch.exists_step_served {s : State} (h : s.SteadyDispatch) (hserve : s.serveTick = true) :
    ∃ t, step s = .next t ∧
      t.core = ⟨s.phase2.packedTime, s.phase2.hours, s.phase2.subTickCount, s.halted, false, false, s.btnLvl,
        s.inputs.swRaw⟩ := by
  obtain ⟨t, hstep, -, -, hcore⟩ := h.exists_step
  rw [hserve, Bool.not_true, Bool.and_false] at hcore
  exact ⟨t, hstep, hcore⟩

/-- The same machine in POLL mode. -/
def State.polled (s : State) : State := { s with cfg := { s.cfg with dispatchMode := .poll } }

@[simp] theorem State.polled_phase1 (s : State) : s.polled.phase1 = s.phase1 := rfl

/-- The dispatch mode is no part of what makes a steady dispatch. -/
theorem State.SteadyDispatch.polled {s : State} (h : s.SteadyDispatch) : s.polled.SteadyDispatch :=
  ⟨h.edgeMode, h.noReset, h.active, h.steady, h.noTimeout, h.noHostAck⟩

/-- Two states that agree in the inputs and in what a steady dispatch reads are both in one. -/
theorem State.SteadyDispatch.of_same {s t : State} (h : s.SteadyDispatch) (hcfg : t.cfg = s.cfg)
    (hinputs : t.inputs = s.inputs) (hhalted : t.halted = s.halted) (hlvl : t.btnLvl = s.btnLvl) :
    t.SteadyDispatch := by
  obtain ⟨hm, hr, hactive, hsteady, htimeout, hhost⟩ := h
  refine ⟨?_, ?_, ?_, ?_, ?_, ?_⟩
  · rw [hcfg, hm]
  · rw [hinputs, hr]
  · rwa [State.active, hinputs, hhalted]
  · rw [hinputs, hlvl, hsteady]
  · rw [hinputs, htimeout]
  · rwa [State.hostAckTick, hinputs]

/-- The second dispatch in IRQ mode, from the registers the first one leaves, is the tick that the one dispatch in POLL
mode runs on its phase 1. -/
theorem State.phase2_after_irq {s t : State} (hpoll : s.polled.serveTick = true) (hserve : t.serveTick = true)
    (hm : t.cfg.inputMode = .edge) (hn : t.cfg.nTicks = s.cfg.nTicks)
    (hcore : t.core = s.coreAfterButton) : t.phase2 = s.polled.phase2 := by
  have hphase1 : t.phase1 = t.clock := State.phase1_of_edge_clear hm (congrArg CoreRegs.btnCap hcore)
  have hpt : t.clock.packedTime = s.phase1.packedTime := congrArg CoreRegs.packedTime hcore
  have hhours : t.clock.hours = s.phase1.hours := congrArg CoreRegs.hours hcore
  have hsub : t.subTickCount = s.subTickCount := congrArg CoreRegs.subTickCount hcore
  rw [State.phase2_of_serveTick hserve, State.phase2_of_serveTick hpoll, State.polled_phase1, hphase1, hpt, hhours,
    hsub, hn]
  rfl

/-- Settles O24: both end with the tick of one phase 1, and serve both sources. -/
theorem bothDispatchModesReachTheSameState : Obligations.BothDispatchModesReachTheSameState := by
  intro s i rest hd hm hrun hcap hpending htrace hr hen hsteady htimeout _ hackTick hhost
  have hi : s.inputs = i := by simp only [State.inputs, htrace]
  have hs : s.SteadyDispatch :=
    { edgeMode := hm
      noReset := by rw [hi, hr]
      active := s.active_eq_true_iff.mpr ⟨by rw [hi, hen], hrun⟩
      steady := by rw [hi, hsteady]
      noTimeout := by rw [hi, htimeout]
      noHostAck := by rw [State.hostAckTick, hi, hackTick, hhost]; rfl }
  obtain ⟨m, hstep, hcfg, htail, hcore⟩ := hs.exists_step_irq hd hcap hpending
  have hi' : m.inputs = s.inputs := by rw [hi]; simp only [State.inputs, htail, htrace, List.tail_cons]
  have hhalted : m.halted = s.halted := congrArg CoreRegs.halted hcore
  have hlvl : m.btnLvl = s.btnLvl := congrArg CoreRegs.btnLvl hcore
  have hmid : m.SteadyDispatch := hs.of_same hcfg hi' hhalted hlvl
  have hserve : m.serveTick = true :=
    hmid.serveTick (congrArg CoreRegs.tickPending hcore) (.inr (congrArg CoreRegs.btnCap hcore))
  have hpoll : s.polled.serveTick = true := hs.polled.serveTick hpending (.inl rfl)
  have hphase2 := State.phase2_after_irq hpoll hserve hmid.edgeMode (congrArg Params.nTicks hcfg) hcore
  obtain ⟨t, hstep', hcore'⟩ := hmid.exists_step_served hserve
  obtain ⟨u, hstepPoll, hcorePoll⟩ := hs.polled.exists_step_served hpoll
  refine ⟨t, u, ?_, ?_, ?_, congrArg CoreRegs.btnCap hcore', congrArg CoreRegs.tickPending hcore'⟩
  · rw [core_run_succ 1 hstep, core_run_succ 0 hstep', core_run_zero]
  · exact core_run_succ 0 hstepPoll
  · rw [hcore', hcorePoll, hphase2, hhalted, hlvl, hi']
    rfl

/-! ### What changes the hours (R138) -/

/-- An event that changes the hours is SET_HRS, or a BUMP that fills the hour. -/
theorem applyEvent_changes_hours {e : Event} {c : Clock} (hp : validPT c.packedTime = true) (hh : c.hours.toNat ≤ 99)
    (h : (applyEvent e c).hours ≠ c.hours) :
    (∃ v, e = .setHrs v) ∨
      ∃ n, e = .bump n ∧ 3600 ≤ 60 * minutesOf c.packedTime + secondsOf c.packedTime + n.toNat := by
  cases e with
  | setHrs v => exact .inl ⟨v, rfl⟩
  | bump n =>
    obtain ⟨-, -, hhours⟩ := Clock.bump_spec n.toNat (digitsOk_of_validPT hp)
    refine .inr ⟨n, rfl, ?_⟩
    by_contra hbelow
    apply h
    apply BitVec.eq_of_toNat_eq
    rw [applyEvent, hhours]
    omega
  | noop | setSec | setMin | exit => exact absurd rfl h

/-- Phase 2 changes the hours of phase 1 by an advance from the last time of the hour only. -/
theorem State.phase2_changes_hours {s : State} (hp : validPT s.phase1.packedTime = true)
    (h : s.phase2.hours ≠ s.phase1.hours) :
    s.phase2.refresh = true ∧ s.phase1.packedTime = 0x5959#16 := by
  cases hserve : s.serveTick
  · rw [State.phase2_of_not_serveTick hserve] at h
    exact absurd rfl h
  · rw [State.phase2_refresh_eq_true_iff]
    rw [State.phase2_of_serveTick hserve] at h
    by_cases hn : s.cfg.nTicks ≤ s.subTickCount.toNat + 1
    · refine ⟨⟨hserve, hn⟩, ?_⟩
      by_contra hother
      rw [tick_of_le hn, advance_hours _ hp, decide_eq_false hother] at h
      exact h rfl
    · rw [tick_of_lt (Nat.not_le.mp hn)] at h
      exact absurd rfl h

/-- A word that carries an event selects its operation. -/
theorem decode_ev9_of_event {w : EV9} {e : Event} (h : decodeEv9 w = e) : decode (.ev9 w) = .ok e.toInstr := by
  rw [decode, h]

/-- Settles O47: the hours change in phase 1, by the event, or in phase 2, by the tick. -/
theorem onlyThreeThingsChangeTheHours : Obligations.OnlyThreeThingsChangeTheHours := by
  intro s t hinv hr hstep hne
  obtain ⟨-, hp, hh, -⟩ := hinv
  obtain ⟨-, ⟨hr', -⟩ | ⟨-, rfl⟩⟩ := step_next hstep
  · simp [hr] at hr'
  by_cases hevent : s.phase1.hours = s.hours
  · have hp1 : validPT s.phase1.packedTime = true := (applyEvent_keeps_valid _ (c := s.clock) hp hh).1
    have hne2 : s.phase2.hours ≠ s.phase1.hours := fun h => hne (h.trans hevent)
    obtain ⟨hrefresh, hlast⟩ := State.phase2_changes_hours hp1 hne2
    refine .inr (.inr ⟨?_, hlast⟩)
    rw [State.refresh, hr, hrefresh]
    rfl
  · rcases applyEvent_changes_hours (c := s.clock) hp hh hevent with ⟨v, he⟩ | ⟨n, he, hfull⟩
    · exact .inl ⟨v, decode_ev9_of_event he⟩
    · exact .inr (.inl ⟨n, decode_ev9_of_event he, hfull⟩)

/-! ### A dispatch cycle by the operations it runs (R120, R121, R134) -/

/-- The operation that derives the event of a cycle, by `INPUT_MODE`. -/
def derivation : InputMode → Instr
  | .edge => .evtEdge
  | .level => .evtLevel

/-- In level mode the cycle derives the event of EVT_LEVEL (R120). -/
theorem State.event_eq_levelOut {s : State} (hm : s.cfg.inputMode = .level) : s.event = s.levelOut := by
  cases h : s.active
  · simp [State.event_of_inactive h, State.levelOut, h]
  · simp [State.event_of_level h hm, State.levelOut, h]

/-- That operation, performed alone, drives the event and the acknowledge of the cycle. -/
theorem exists_exec_derivation (s : State) : ∃ e, exec (derivation s.cfg.inputMode) s = .next e ∧
    e.wires.ev = s.event.ev ∧ e.wires.ackBtn = s.event.ackBtn := by
  cases hm : s.cfg.inputMode
  · rw [State.event_eq_edgeOut hm]
    exact ⟨_, exec_evtEdge s, rfl, rfl⟩
  · rw [State.event_eq_levelOut hm]
    exact ⟨_, exec_evtLevel s, rfl, s.levelOut_ackBtn.symm⟩

/-- What an event of a running core leaves is the result of the event on the clock state. -/
theorem State.mapClock_clock_of_running {s : State} (f : Clock → Clock) (h : s.halted = false) :
    (s.mapClock f).clock = f s.clock := by
  rw [State.mapClock_of_running f h]
  rfl

/-- What TICK of a running core leaves in time, hours and counter. -/
theorem exec_tick_clock {u v : State} (hrun : u.halted = false) (h : exec .tick u = .next v) :
    v.packedTime = u.tickOut.packedTime ∧ v.hours = u.tickOut.hours ∧ v.subTickCount = u.tickOut.subTickCount := by
  obtain rfl := Host.Outcome.next.inj ((exec_tick_of_running hrun).symm.trans h)
  exact ⟨rfl, rfl, rfl⟩

/-- What the event of the cycle, performed alone, leaves. -/
def State.afterEvent (s : State) : State := s.mapClock (applyEvent (decodeEv9 s.event.ev))

/-- In a running core that is the result of phase 1. -/
theorem State.afterEvent_clock {s : State} (h : s.halted = false) : s.afterEvent.clock = s.phase1 :=
  State.mapClock_clock_of_running _ h

@[simp] theorem State.afterEvent_cfg (s : State) : s.afterEvent.cfg = s.cfg := s.mapClock_cfg _
@[simp] theorem State.afterEvent_subTickCount (s : State) : s.afterEvent.subTickCount = s.subTickCount :=
  s.mapClock_subTickCount _

/-- A cycle that serves a tick ends with what TICK leaves after the event. -/
theorem State.phase2_eq_exec_tick {s v : State} (hrun : s.halted = false) (hserve : s.serveTick = true)
    (hv : exec .tick s.afterEvent = .next v) :
    s.phase2.packedTime = v.packedTime ∧ s.phase2.hours = v.hours ∧ s.phase2.subTickCount = v.subTickCount := by
  have hclock := State.afterEvent_clock hrun
  obtain ⟨-, -, hrun1, -⟩ := s.serveTick_eq_true_iff.mp hserve
  obtain ⟨hpt, hhours, hsub⟩ := exec_tick_clock ((congrArg Clock.halted hclock).trans hrun1) hv
  have hpt1 : s.afterEvent.packedTime = s.phase1.packedTime := congrArg Clock.packedTime hclock
  have hhours1 : s.afterEvent.hours = s.phase1.hours := congrArg Clock.hours hclock
  rw [hpt, hhours, hsub, State.phase2_of_serveTick hserve, State.tickOut, hpt1, hhours1,
    State.afterEvent_cfg, State.afterEvent_subTickCount]
  exact ⟨rfl, rfl, rfl⟩

/-- Settles O20: phase 1 is the event performed alone, and phase 2 is TICK after it when the tick is served. -/
theorem aCycleRunsTheDecodedEventThenTheTick : Obligations.ACycleRunsTheDecodedEventThenTheTick := by
  intro s hc hr hen hrun
  have hactive : s.active = true := s.active_eq_true_iff.mpr ⟨hen, hrun⟩
  have hclock := State.afterEvent_clock hrun
  have hhalted : s.phase1.halted = s.afterEvent.halted := congrArg Clock.halted hclock.symm
  obtain ⟨e, hderive, hev, hack⟩ := exists_exec_derivation s
  obtain ⟨v, hv⟩ := exists_exec_next_of_ne_step s.afterEvent (i := .tick) (by decide)
  have hserve : s.serveTick = true ↔ s.tickPending = true ∧ s.afterEvent.halted = false ∧
      (s.cfg.dispatchMode = .poll ∨ s.btnCap = false) := by
    simp only [State.serveTick_eq_true_iff, hactive, hhalted, true_and]
  refine ⟨(decodeEv9 s.event.ev).toInstr, e, s.afterEvent, v, _, hderive, ?_, exec_toInstr _ s, hv, step_run s hc hr,
    hactive, ?_, hev.symm, hack.symm, hhalted, ?_, hserve, rfl, ?_, ?_⟩
  · rw [hev]
    exact decode_ev9_of_event rfl
  · rw [hev, hack]
  · rw [hack, ← Bool.or_eq_false_iff]
    exact captureCell_eq_true_iff _ _ _
  · rw [← hserve]
    intro hserved
    obtain ⟨hpt, hhours, hsub⟩ := State.phase2_eq_exec_tick hrun hserved hv
    refine ⟨hpt, hhours, hsub, ?_⟩
    simp [hserved]
  · rw [← hserve, Bool.not_eq_true]
    intro hwaits
    have hphase2 : s.phase2 = ⟨s.afterEvent.packedTime, s.afterEvent.hours, s.afterEvent.subTickCount, false⟩ := by
      rw [State.phase2_of_not_serveTick hwaits, ← hclock, State.afterEvent_subTickCount]
      rfl
    refine ⟨congrArg TickOut.packedTime hphase2, congrArg TickOut.hours hphase2,
      congrArg TickOut.subTickCount hphase2, ?_⟩
    simp [hwaits, captureCell_eq_true_iff]

end Sys2Proof.Machine

/-! PROOFS. The host register operations (43_register_ops.md): each access performed alone, the acknowledges at the edge
that ends a cycle, and what no access of a cycle can reach. -/

namespace Sys2Proof.Machine

/-! ### Which inputs the clock state sees (R120, R193) -/

/-- The clock state a step leaves is that of RESET or of the core's own cycle. -/
theorem step_next_clock {s t : State} (h : step s = .next t) :
    t.clock = (if s.inputs.rst then s.applyReset.clock else s.runCycle.clock) ∧
      t.subTickCount = (if s.inputs.rst then s.applyReset.subTickCount else s.runCycle.subTickCount) := by
  obtain ⟨-, ⟨hr, rfl⟩ | ⟨hr, rfl⟩⟩ := step_next h <;> rw [hr]
  · exact ⟨rfl, rfl⟩
  · exact ⟨rfl, rfl⟩

/-- `s` at the start of a cycle with the inputs `i`. -/
def State.withInputs (s : State) (i : Inputs) (rest : List Inputs) : State := { s with trace := i :: rest }

section
variable {s : State} {i j : Inputs} {rest : List Inputs} (h : i.dispatchEn = j.dispatchEn)
include h

/-- Of the inputs, `active` reads `dispatch_en` alone. -/
theorem State.withInputs_active : (s.withInputs i rest).active = (s.withInputs j rest).active :=
  congrArg (· && !s.halted) h

/-- The event of a cycle comes from `active` and the registers at its start. -/
theorem State.withInputs_event : (s.withInputs i rest).event = (s.withInputs j rest).event := by
  rw [State.event, State.withInputs_active h]
  rfl

/-- So does the result of phase 1. -/
theorem State.withInputs_phase1 : (s.withInputs i rest).phase1 = (s.withInputs j rest).phase1 := by
  rw [State.phase1, State.withInputs_event h]
  rfl

/-- Whether a tick is served is settled by phase 1 and the registers at the start of the cycle. -/
theorem State.withInputs_serveTick : (s.withInputs i rest).serveTick = (s.withInputs j rest).serveTick := by
  rw [State.serveTick, State.withInputs_active h, State.withInputs_phase1 h]
  rfl

/-- So is the result of phase 2. -/
theorem State.withInputs_phase2 : (s.withInputs i rest).phase2 = (s.withInputs j rest).phase2 := by
  rw [State.phase2, State.withInputs_serveTick h, State.withInputs_phase1 h]
  rfl

/-- A cycle without reset ends with a clock state that `dispatch_en` and the registers at its start determine. -/
theorem State.withInputs_runCycle_clock :
    (s.withInputs i rest).runCycle.clock = (s.withInputs j rest).runCycle.clock ∧
      (s.withInputs i rest).runCycle.subTickCount = (s.withInputs j rest).runCycle.subTickCount := by
  simp only [State.clock, State.runCycle_packedTime, State.runCycle_hours, State.runCycle_halted,
    State.runCycle_subTickCount, State.withInputs_phase1 h, State.withInputs_phase2 h, and_self]

/-- Cycles that agree on the reset line and on `dispatch_en` end with one clock state. -/
theorem step_withInputs_clock {t u : State} (hrst : i.rst = j.rst)
    (ht : step (s.withInputs i rest) = .next t) (hu : step (s.withInputs j rest) = .next u) :
    t.clock = u.clock ∧ t.subTickCount = u.subTickCount := by
  obtain ⟨hclock, hsub⟩ := step_next_clock ht
  obtain ⟨hclock', hsub'⟩ := step_next_clock hu
  obtain ⟨hrun, hrunSub⟩ := State.withInputs_runCycle_clock (s := s) (rest := rest) h
  have hlines : (s.withInputs i rest).inputs.rst = (s.withInputs j rest).inputs.rst := hrst
  rw [hclock, hclock', hsub, hsub', hlines, hrun, hrunSub]
  exact ⟨rfl, rfl⟩

end

/-- Settles O50: the host and the consumer drive neither the reset line nor `dispatch_en`. -/
theorem hostCannotWriteTheClockStateWithinTheCycle : Obligations.HostCannotWriteTheClockStateWithinTheCycle := by
  intro s i j rest t u hdiffer ht hu
  have hdispatch : i.dispatchEn = j.dispatchEn := (congrArg Inputs.dispatchEn hdiffer).symm
  have hrst : i.rst = j.rst := (congrArg Inputs.rst hdiffer).symm
  obtain ⟨hclock, hsub⟩ := step_withInputs_clock hdispatch hrst ht hu
  exact ⟨congrArg Clock.packedTime hclock, congrArg Clock.hours hclock, hsub, congrArg Clock.halted hclock⟩

/-! ### Reads (R142 to R144, R146) -/

/-- A listed read, performed alone, replaces the host's word by the register's. -/
theorem exec_of_listed_read {r : LogReg} {o : Instr} (h : decodeReg (.read r) = .ok o) (s : State) :
    exec o s = .next (s.setHostRead (s.readReg r)) := by
  cases r with
  | switches | buttonData | buttonEdge | timerStatus =>
    obtain rfl := Except.ok.inj h
    rfl
  | led | display | timerControl | timerPeriod => exact nomatch h

/-- Settles O53: the used bits of each register's word. -/
theorem readsReturnTheRegisterAndClearNothing : Obligations.ReadsReturnTheRegisterAndClearNothing :=
  fun s => ⟨⟨_, exec_of_listed_read (r := .switches) rfl s, readReg_switches s⟩,
    ⟨_, exec_of_listed_read (r := .buttonData) rfl s, readReg_buttonData s⟩,
    ⟨_, exec_of_listed_read (r := .buttonEdge) rfl s, readReg_buttonEdge s⟩,
    ⟨_, exec_of_listed_read (r := .timerStatus) rfl s, readReg_timerStatus s⟩⟩

/-! ### Acknowledges by writing a 1 (R145, R147) -/

/-- An acknowledge leaves the timeout of the cycle in the pending bit, and nothing else changes. -/
theorem State.ackTimer_eq (s : State) (a : Bool) :
    s.ackTimer a = s.setTickPending (if a then s.inputs.tmrTimeout else s.tickPending) := by
  cases a
  · rfl
  · exact congrArg s.setTickPending (captureCell_ack s.inputs.tmrTimeout s.tickPending)

/-- ACK_EDGE alone. -/
theorem exec_ackEdge (d : BusWord) (s : State) :
    exec (.ackEdge d) s = .next (s.setBtnCap (if d.getLsbD 0 then s.trans else s.btnCap)) :=
  congrArg Host.Outcome.next (s.ackCapture_eq _)

/-- ACK_TSTAT alone. -/
theorem exec_ackTstat (d : BusWord) (s : State) :
    exec (.ackTstat d) s = .next (s.setTickPending (if d.getLsbD 0 then s.inputs.tmrTimeout else s.tickPending)) :=
  congrArg Host.Outcome.next (s.ackTimer_eq _)

/-- Settles O54, by bit 0 of the word. -/
theorem hostAcknowledgesByWritingOne : Obligations.HostAcknowledgesByWritingOne :=
  fun d s => ⟨⟨_, exec_ackEdge d s, fun h => if_neg (Bool.eq_false_iff.mp h), fun h => if_pos h⟩,
    ⟨_, exec_ackTstat d s, fun h => if_neg (Bool.eq_false_iff.mp h), fun h => if_pos h⟩⟩

/-- Outside a dispatch the host alone acknowledges the button. -/
theorem State.runCycle_btnCap_of_inactive {s : State} (h : s.active = false) :
    s.runCycle.btnCap = captureCell s.trans s.btnCap s.hostAckBtn := by
  rw [State.runCycle_btnCap, State.event_of_inactive h]
  rfl

/-- Outside a dispatch the host alone acknowledges the timer. -/
theorem State.runCycle_tickPending_of_inactive {s : State} (h : s.active = false) :
    s.runCycle.tickPending = captureCell s.inputs.tmrTimeout s.tickPending s.hostAckTick := by
  rw [State.runCycle_tickPending, State.serveTick_of_inactive h]
  rfl

/-- In a cycle without reset and dispatch each cell sees its own port, which an access may raise. -/
theorem exists_step_withAccess_cells {s : State} {i : Inputs} (rest : List Inputs) (a : Option RegAccess)
    (hc : s.cfg.refusedPair = false) (hr : i.rst = false) (hd : i.dispatchEn = false) :
    ∃ t, step (s.withAccess i rest a) = .next t ∧
      t.btnCap = captureCell (recogniseEdge s.cfg.edgeSel s.btnLvl i.btnRaw) s.btnCap
        (i.hostAckBtn || writesBtnAck a) ∧
      t.tickPending = captureCell i.tmrTimeout s.tickPending (i.hostAckTick || writesTickAck a) :=
  have hidle : (s.withAccess i rest a).active = false := (State.active_eq_false_iff _).mpr (.inl hd)
  ⟨_, step_run (s.withAccess i rest a) hc hr, State.runCycle_btnCap_of_inactive hidle,
    State.runCycle_tickPending_of_inactive hidle⟩

/-- A write to edge-capture does not acknowledge the timer. -/
theorem writesTickAck_buttonEdge (d : BusWord) : writesTickAck (some (.write (.buttonEdge d))) = false := rfl

/-- A write to Timer status does not acknowledge the button. -/
theorem writesBtnAck_timerStatus (d : BusWord) : writesBtnAck (some (.write (.timerStatus d))) = false := rfl

/-- Settles O59: either write raises its own port by bit 0 of the word, and leaves the other as it is given. -/
theorem hostAcknowledgeActsAtTheEdge : Obligations.HostAcknowledgeActsAtTheEdge := by
  intro s i rest d hc hr hd
  obtain ⟨t, ht, hbtn, htick⟩ := exists_step_withAccess_cells rest (some (.write (.buttonEdge d))) hc hr hd
  obtain ⟨u, hu, hbtn', htick'⟩ := exists_step_withAccess_cells rest (some (.write (.timerStatus d))) hc hr hd
  rw [writesTickAck_buttonEdge, Bool.or_false] at htick
  rw [writesBtnAck_timerStatus, Bool.or_false] at hbtn'
  exact ⟨⟨t, ht, hbtn, htick⟩, u, hu, htick', hbtn'⟩

/-! ### Writes to the neighbours (R148, R149, R190, R191) -/

/-- WR_TPER alone. -/
theorem exec_wrTper (half : PeriodHalf) (d : BitVec 16) (s : State) :
    exec (.wrTper half d) s = .next (s.setExt (s.ext.setPeriod half d)) := rfl

/-- The high half is not written by a write to the low half (R43, R190). -/
theorem setPeriod_low_high (n : Neighbours) (d : BitVec 16) :
    (n.setPeriod .low d).period.extractLsb' 16 16 = n.period.extractLsb' 16 16 :=
  (period_high _).trans (period_high n).symm

/-- Settles O55: for either half of the period, the half written and the half kept. -/
theorem timerAndLedWritesReachTheNeighboursOnly : Obligations.TimerAndLedWritesReachTheNeighboursOnly :=
  fun _ d _ s => ⟨rfl, rfl,
    ⟨_, exec_wrTper .low d s, setPeriod_low s.ext d, setPeriod_low_high s.ext d, rfl⟩,
    ⟨_, exec_wrTper .high d s, setPeriod_high s.ext d, setPeriod_high_low s.ext d, rfl⟩⟩

/-- WR_DISP alone changes the display registers alone. -/
theorem exec_wrDisp (k : Nat) (p : BitVec 8) (s : State) :
    exec (.wrDisp k p) s = .next (s.setExt { s.ext with disp := (s.ext.setDisplay k p).disp }) :=
  congrArg (fun e => Host.Outcome.next (s.setExt e)) (setDisplay_eq s.ext k p)

/-- Settles O56: a `k` beyond 5 is the index of no display. -/
theorem displayWriteIgnoresAnIndexBeyondFive : Obligations.DisplayWriteIgnoresAnIndexBeyondFive :=
  fun k p s => ⟨_, exec_wrDisp k p s, setDisplay_disp s.ext k p⟩

/-! ### The consumer's read (R192) -/

/-- RD_TIME alone. -/
theorem exec_rdTime (s : State) : exec .rdTime s = .next (s.setTimeRead s.timePorts) := rfl

/-- The decode ports of a valid time: no error, and fields that encode back to it (R88 (a)). -/
theorem State.timePorts_of_validPT {s : State} (h : validPT s.packedTime = true) :
    s.timePorts.bcdErr = false ∧ enc s.timePorts.decMin.toNat s.timePorts.decSec.toNat = s.packedTime :=
  ⟨State.bcdErr_of_digitsOk (digitsOk_of_validPT h), enc_dec h⟩

/-- Settles O57: the result is the ports of the cycle, of which the decode ports are those of DEC. -/
theorem timeReadReturnsThePorts : Obligations.TimeReadReturnsThePorts :=
  fun s => ⟨s.timePorts, exec_rdTime s, rfl, rfl, rfl, rfl, rfl, rfl, rfl, State.timePorts_of_validPT⟩

end Sys2Proof.Machine

/-! PROOFS. The display projector (60_exceptions.md): the patterns it shows, and what it rejects. -/

namespace Sys2Proof.Machine

/-! ### The digits of a decimal word (R80, R86) -/

/-- The tens and the ones of the minutes are their two nibbles. -/
theorem minutesOf_div_mod {p : PT16} (h : digitsOk p = true) :
    minutesOf p / 10 = (minTens p).toNat ∧ minutesOf p % 10 = (minOnes p).toNat := by
  obtain ⟨-, hones, -, -⟩ := (digitsOk_iff p).mp h
  rw [minutesOf]
  omega

/-- The tens and the ones of the seconds are their two nibbles. -/
theorem secondsOf_div_mod {p : PT16} (h : digitsOk p = true) :
    secondsOf p / 10 = (secTens p).toNat ∧ secondsOf p % 10 = (secOnes p).toNat := by
  obtain ⟨-, -, -, hones⟩ := (digitsOk_iff p).mp h
  rw [secondsOf]
  omega

/-! ### The two patterns the spec gives (R149) -/

/-- Digit 0 is shown by `0xC0`, whatever was shown before. -/
theorem renderDigit_zero (prior : BitVec 8) : renderDigit prior 0 = 0xC0#8 :=
  renderDigit_of_le prior (by decide)

/-- Digit 9 is shown by `0x90`, whatever was shown before. -/
theorem renderDigit_nine (prior : BitVec 8) : renderDigit prior 9 = 0x90#8 :=
  renderDigit_of_le prior (by decide)

/-! ### What the present cycle shows (R86, R151, R153) -/

/-- A time that decodes is rendered from the ports of the cycle. -/
theorem State.rendered_of_decodes {s : State} (h : s.bcdErr = false) (prior : DigitPatterns) :
    s.rendered prior = render prior s.hours.toNat s.decMin.toNat s.decSec.toNat :=
  if_neg (Bool.eq_false_iff.mp h)

/-- A time that does not decode leaves what was shown. -/
theorem State.rendered_of_not_decodes {s : State} (h : (dec s.packedTime).ok = false) (prior : DigitPatterns) :
    s.rendered prior = prior :=
  if_pos (congrArg not h)

/-- A valid time with hours of at most 99 shows its six digits: those of the minutes and the seconds are the nibbles of
the packed word. -/
theorem State.rendered_of_validPT {s : State} (hp : validPT s.packedTime = true) (hh : s.hours.toNat ≤ 99)
    (prior : DigitPatterns) : s.rendered prior =
      ⟨segmentPattern (s.hours.toNat / 10), segmentPattern (s.hours.toNat % 10),
        segmentPattern (minTens s.packedTime).toNat, segmentPattern (minOnes s.packedTime).toNat,
        segmentPattern (secTens s.packedTime).toNat, segmentPattern (secOnes s.packedTime).toNat⟩ := by
  have hdigits := digitsOk_of_validPT hp
  obtain ⟨hmin, hsec⟩ := fields_lt hp
  obtain ⟨hminTens, hminOnes⟩ := minutesOf_div_mod hdigits
  obtain ⟨hsecTens, hsecOnes⟩ := secondsOf_div_mod hdigits
  rw [State.rendered_of_decodes (State.bcdErr_of_digitsOk hdigits), State.decMin_of_validPT hp,
    State.decSec_of_validPT hp, render_of_le prior hh (by omega) (by omega), hminTens, hminOnes, hsecTens, hsecOnes]

/-- Settles O60, by whether the digit is decimal, and for a state by whether its time decodes. -/
theorem renderShowsTheDigitsAndRejectsThoseAboveNine : Obligations.RenderShowsTheDigitsAndRejectsThoseAboveNine := by
  refine ⟨fun prior _ => ⟨renderDigit_of_gt prior, renderDigit_zero prior, renderDigit_nine prior⟩,
    fun prior _ _ _ => render_of_le prior, fun s prior hinv => ?_,
    fun _ prior h => State.rendered_of_not_decodes h prior⟩
  obtain ⟨-, hp, hh, -⟩ := hinv
  exact State.rendered_of_validPT hp hh prior

end Sys2Proof.Machine

/-! PROOFS. Reset and hazards (70_reset_and_hazards.md): the reset operation and the reset cycle, the first cycle after a
reset, the tick at time zero, and the timeouts that meet a pending tick. -/

namespace Sys2Proof.Machine

/-! ### RESET alone, and the reset cycle (R170, R171, R34) -/

/-- RESET alone. -/
theorem exec_reset (s : State) : exec .reset s = .next s.applyReset := rfl

/-- The word of NOOP on the event bus is zero (R63). -/
theorem encodeEv9_noop : encodeEv9 .noop = 0 := by decide

/-- The wires of a reset cycle, in words. -/
theorem Wires.quiet_eq (w : Wires) :
    w.quiet = { w with ev := 0, ackBtn := false, ackTick := false, refresh := false } := by
  rw [Wires.quiet, encodeEv9_noop]

/-- The reset values of the eight registers (R34). -/
theorem State.applyReset_core (s : State) :
    s.applyReset.core = ⟨s.cfg.seedPacked, s.cfg.seedHours, 0, false, false, false, false, 0⟩ := rfl

/-- Settles O26: the reset values, and the event wires of a quiet cycle. -/
theorem resetRestoresEveryRegister : Obligations.ResetRestoresEveryRegister := by
  refine fun s => ⟨_, exec_reset s, ?_⟩
  rw [State.applyReset, Wires.quiet_eq]

/-- Settles O27: the reset line chooses RESET before any other input is read. -/
theorem resetHasPriorityOverEveryInput : Obligations.ResetHasPriorityOverEveryInput :=
  fun s hc hr => ⟨(execStep_reset s hc hr).trans (exec_reset s).symm, _, step_reset s hc hr,
    s.hostPhase.applyReset_core⟩

/-! ### The first cycle after a reset (R174, R102, R103) -/

/-- A line that rises is an edge for every selection but that of the falls. -/
theorem recogniseEdge_rising_iff (e : EdgeSel) : recogniseEdge e false true = true ↔ e ≠ .fall := by
  rw [recogniseEdge_eq_true_iff]
  cases e <;> simp

/-- Right after a reset the sampled level is 0, so the transition wire sees the line alone. -/
theorem State.trans_resetWith (c : Params) (i : Inputs) (rest : List Inputs) :
    ((State.resetWith c).withInputs i rest).trans = recogniseEdge c.edgeSel false i.btnRaw := rfl

/-- A clear capture bit takes the transition of the cycle, whoever acknowledges. -/
theorem State.runCycle_btnCap_of_idle {s : State} (hidle : s.btnCap = false) : s.runCycle.btnCap = s.trans := by
  rw [State.runCycle_btnCap, hidle, captureCell_idle]

/-- Settles O28: the held button is a rising edge, which the clear capture bit takes. -/
theorem buttonHeldAtResetIsCaptured : Obligations.ButtonHeldAtResetIsCaptured := by
  intro c i rest hc hr hbtn
  have hcap : ((State.resetWith c).withInputs i rest).runCycle.btnCap = recogniseEdge c.edgeSel false true := by
    rw [State.runCycle_btnCap_of_idle rfl, State.trans_resetWith, hbtn]
  refine ⟨_, step_run ((State.resetWith c).withInputs i rest) hc hr, hbtn, ?_⟩
  rw [← recogniseEdge_rising_iff, ← hcap]
  rfl

/-! ### The tick at time zero (R179, R132) -/

/-- INC of the zero word: one second, and no carry into the hours. -/
theorem inc_zero : (inc 0x0000#16).q = 0x0001#16 ∧ (inc 0x0000#16).hourOvf = false := by
  rw [inc_of_validPT (by decide)]
  decide

/-- ADVANCE from time zero keeps the hours: what carries is a result of zero, not an operand of zero (R84, R132). -/
theorem advance_zero (h : Hours) : advance 0x0000#16 h = ⟨0x0001#16, h, 0, true⟩ := by
  obtain ⟨hq, hovf⟩ := inc_zero
  rw [advance, hq, hovf, hourCarry_false]

/-- Settles O43: below the threshold time and hours hold, and at it the advance from zero has no carry. -/
theorem zeroTimeDoesNotFireTheHourCarry : Obligations.ZeroTimeDoesNotFireTheHourCarry := by
  intro s hrun hzero
  refine ⟨_, exec_tick_of_running hrun, ?_⟩
  by_cases hbelow : s.subTickCount.toNat + 1 < s.cfg.nTicks
  · rw [if_pos hbelow, State.tickOut, tick_of_lt hbelow]
    exact ⟨rfl, hzero⟩
  · rw [if_neg hbelow, State.tickOut, tick_of_le (Nat.not_lt.mp hbelow), hzero, advance_zero]
    exact ⟨rfl, rfl⟩

/-! ### Timeouts that meet a pending tick (R178, R113) -/

/-- A timeout sets the pending bit, served or not. -/
theorem State.runCycle_tickPending_of_timeout {s : State} (h : s.inputs.tmrTimeout = true) :
    s.runCycle.tickPending = true := by
  rw [State.runCycle_tickPending, h, captureCell_set]

/-- A cycle that is no dispatch writes the samples and the two cells alone. -/
theorem State.runCycle_core_of_inactive {s : State} (h : s.active = false) :
    s.runCycle.core = { s.core with
      tickPending := s.runCycle.tickPending, btnCap := s.runCycle.btnCap
      btnLvl := s.inputs.btnRaw, swLvl := s.inputs.swRaw } := by
  have hclock : s.runCycle.clock = s.clock := State.runCycle_clock_of_inactive h
  have hsub : s.runCycle.subTickCount = s.subTickCount :=
    State.runCycle_subTickCount_of_not_serveTick (State.serveTick_of_inactive h)
  obtain ⟨htime, hhours, hhalted⟩ := Clock.mk.inj hclock
  simp only [State.core, htime, hhours, hhalted, hsub, State.runCycle_btnLvl, State.runCycle_swLvl]

/-- Settles O52: the timeout sets the bit, which is no change when the tick is pending and nothing serves it. -/
theorem timeoutsOutsideADispatchMerge : Obligations.TimeoutsOutsideADispatchMerge := by
  intro s hc hr htimeout
  have hset : s.runCycle.tickPending = true := State.runCycle_tickPending_of_timeout htimeout
  refine ⟨_, step_run s hc hr, hset, fun hpending hinactive => ?_⟩
  have hmerged : s.runCycle.tickPending = s.tickPending := hset.trans hpending.symm
  rw [State.nextCycle_core, State.hostPhase_runCycle_core,
    State.runCycle_core_of_inactive (s.active_eq_false_iff.mpr hinactive), hmerged]
  rfl

end Sys2Proof.Machine
